-- ==== Sys2Proof/Word.lean ====
section
/-! DEFINITION. The word types of the XEM motion core: bytes of packets and frames, 32-bit registers,
7-bit chip register addresses, the five bytes of a wire frame, and the two directions. -/

namespace Sys2Proof

/-- One byte of a packet, a frame or a response (`30_encoding.md` R60, R70). -/
abbrev Byte := BitVec 8

/-- A 32-bit register or operand (`00_scope.md` R5 `DATA_W`, R6 `POS_W`, `DELAY_W`, `OVS_W`, `CNT_W`). -/
abbrev Word := BitVec 32

/-- A chip register address: "7-bit value" (`00_scope.md` R5 `ADDR_W`, `20_memory.md` R40). -/
abbrev Addr := BitVec 7

/-- The five bytes of one wire frame or one reply, byte 0 first on the wire (`30_encoding.md` R60). -/
structure Bytes5 where
  b0 : Byte
  b1 : Byte
  b2 : Byte
  b3 : Byte
  b4 : Byte
  deriving DecidableEq, Repr, Inhabited

/-- A direction of motion, `+1` (toward larger `position`) or `-1` (`10_state.md` R13, R15, R16). -/
inductive Sign where
  | plus
  | minus
  deriving DecidableEq, Repr, Inhabited

/-- The two stall predicates HOME can select (`10_state.md` R15, `42_homing.md` R146). -/
inductive Pred where
  | predFlag
  | predAnalog
  deriving DecidableEq, Repr, Inhabited

end Sys2Proof
end

