-- ==== Sys2Proof/Syntax.lean ====
section
/-! DEFINITION. The instructions of the XEM motion core, one constructor per row of `spec/opcode_table.json`:
the eleven host commands and the two wire frames (`30_encoding.md` R61, R62, R71). Operands are already
assembled (`30_encoding.md` R73), so every term of `Instr` is a legal instruction. -/

namespace Sys2Proof

/-- The eleven host commands by name (`30_encoding.md` R71). -/
inductive Opcode where
  | init
  | move
  | home
  | wreg
  | rreg
  | decode
  | getpos
  | ismov
  | cancel
  | setcfg
  | getcfg
  deriving DecidableEq, Repr

/-- An instruction: a host command with its operands, or one of the two wire frames the block sends. -/
inductive Instr where
  /-- `INIT` (R162). -/
  | init
  /-- `MOVE target, initialDelay, minDelay, overshoot` (R91); `target` is read as two's complement. -/
  | move (target initialDelay minDelay overshoot : Word)
  /-- `HOME dir, pred` (R141). -/
  | home (dir : Sign) (pred : Pred)
  /-- `WREG addr, value` (R126). -/
  | wreg (addr : Addr) (value : Word)
  /-- `RREG addr` (R127). -/
  | rreg (addr : Addr)
  /-- `DECODE word` (R128). -/
  | decode (word : Word)
  /-- `GETPOS` (R163). -/
  | getpos
  /-- `ISMOV` (R164). -/
  | ismov
  /-- `CANCEL` (R166). -/
  | cancel
  /-- `SETCFG index, value` (R167). -/
  | setcfg (index : Byte) (value : Word)
  /-- `GETCFG index` (R168). -/
  | getcfg (index : Byte)
  /-- `WFRAME(addr, data)`, the write frame (R61). -/
  | wframe (addr : Addr) (data : Word)
  /-- `RFRAME(addr)`, the read-request frame (R62). -/
  | rframe (addr : Addr)
  deriving DecidableEq, Repr

/-- Where a byte string arrives: at the host's command port, or on the serial bus (`30_encoding.md`). The
same five bytes can be a `DECODE` packet at one and a read frame at the other, so a decoder is told which. -/
inductive Port where
  | command
  | wire
  deriving DecidableEq, Repr

/-- The port an instruction belongs to. -/
def Instr.port : Instr → Port
  | .wframe _ _ => .wire
  | .rframe _ => .wire
  | _ => .command

end Sys2Proof
end

