-- ==== Sys2Proof/WellFormed.lean ====
section
/-! DEFINITION. Well-formedness of what arrives at the block, written from `30_encoding.md` R71, R74 (command
packets) and R60, R64 (wire frames) without the decoder. The decoder's agreement with these checks is an
obligation. Every term of `Instr` is well formed by the widths of its operands, so the checks are on bytes. -/

namespace Sys2Proof

/-- The length in bytes that R71 gives each opcode byte; `none` for an unassigned opcode. -/
def packetLength (op : Byte) : Option Nat :=
  if op = 0x01 ∨ op = 0x07 ∨ op = 0x08 ∨ op = 0x09 then some 1
  else if op = 0x03 ∨ op = 0x05 ∨ op = 0x0B then some 2
  else if op = 0x06 then some 5
  else if op = 0x04 ∨ op = 0x0A then some 6
  else if op = 0x02 then some 17
  else none

/-- The opcode is one of `0x01` to `0x0B` (R74: `0x00` and `0x0C` to `0xFF` are unassigned). -/
def opcodeAssigned (p : List Byte) : Bool :=
  match p with
  | [] => false
  | op :: _ => (packetLength op).isSome

/-- The packet has the length of its opcode (R74). -/
def lengthMatches (p : List Byte) : Bool :=
  match p with
  | [] => false
  | op :: _ => packetLength op == some p.length

/-- Bits that must be zero are zero: `p[1][7:2]` of HOME, `p[1][7]` of WREG and RREG (R74). -/
def reservedBitsClear (p : List Byte) : Bool :=
  match p with
  | op :: x :: _ =>
    if op = 0x03 then x.toNat < 4
    else if op = 0x04 ∨ op = 0x05 then x.toNat < 128
    else true
  | _ => true

/-- A legal command packet (R74). -/
def packetLegal (p : List Byte) : Bool :=
  opcodeAssigned p && lengthMatches p && reservedBitsClear p

/-- A frame the block may send: five bytes, and a zero payload when the write flag is clear (R60, R64). -/
def frameLegal (f : List Byte) : Bool :=
  match f with
  | [h, d3, d2, d1, d0] => decide (128 ≤ h.toNat) || (d3 == 0 && d2 == 0 && d1 == 0 && d0 == 0)
  | _ => false

end Sys2Proof
end

