-- ==== Sys2Proof/Decode.lean ====
section
/-! DEFINITION. The decoder, total on any bytes and rejecting by name, and after it the encoder, both written
from `30_encoding.md` (R60 to R62 for wire frames, R71 to R74 for command packets), with the byte-order
helpers they share (`00_scope.md` R8, `20_memory.md` R42). -/

namespace Sys2Proof

/-! ### Byte order -/

/-- `be32` of `00_scope.md` R8: four bytes, the first most significant. -/
def be32 (b3 b2 b1 b0 : Byte) : Word := b3 ++ b2 ++ b1 ++ b0

/-- Byte `k` of a word, byte 0 least significant: `v[8k+7 : 8k]`. -/
def byteOf (v : Word) (k : Nat) : Byte := v.extractLsb' (8 * k) 8

/-- `bytes_be32` of `00_scope.md` R8. -/
def bytesBe32 (v : Word) : List Byte := [byteOf v 3, byteOf v 2, byteOf v 1, byteOf v 0]

/-- `be32(rx, 1)`: the word in bytes 1 to 4 of a frame or reply (`30_encoding.md` R63). -/
def Bytes5.payload (f : Bytes5) : Word := be32 f.b1 f.b2 f.b3 f.b4

/-- The five bytes in the order sent. -/
def Bytes5.toList (f : Bytes5) : List Byte := [f.b0, f.b1, f.b2, f.b3, f.b4]

/-- A header byte followed by a big-endian payload (`30_encoding.md` R60). -/
def frameOf (header : Byte) (v : Word) : Bytes5 :=
  ⟨header, byteOf v 3, byteOf v 2, byteOf v 1, byteOf v 0⟩

/-- `WFRAME(a, v)` = `[0x80 + a] ++ bytes_be32(v)` (`30_encoding.md` R61). -/
def writeFrame (a : Addr) (v : Word) : Bytes5 := frameOf (1#1 ++ a) v

/-- `RFRAME(a)` = `[a, 0, 0, 0, 0]` (`30_encoding.md` R62). -/
def readFrame (a : Addr) : Bytes5 := frameOf (0#1 ++ a) 0

/-! ### The decoder -/

/-- Why a byte string is no instruction. -/
inductive DecodeError where
  /-- The packet is empty (R74). -/
  | emptyPacket
  /-- Opcode `0x00` or `0x0C` to `0xFF` (R74). -/
  | unassignedOpcode
  /-- The length is not that of the opcode (R74), or a frame is not five bytes (R60). -/
  | wrongLength
  /-- `HOME` with `p[1][7:2] != 0` (R74). -/
  | reservedFlagBits
  /-- `WREG` or `RREG` with `p[1][7] = 1` (R74). -/
  | addressTooLarge
  /-- A frame with the write flag clear and a non-zero payload (R64). -/
  | payloadOnRead
  deriving DecidableEq, Repr

/-- What the decoder answers. -/
inductive Decoded where
  | instr (i : Instr)
  | illegal (e : DecodeError)
  deriving DecidableEq, Repr

/-- The opcode byte of each command (R71). -/
def Opcode.byte : Opcode → Byte
  | .init => 0x01
  | .move => 0x02
  | .home => 0x03
  | .wreg => 0x04
  | .rreg => 0x05
  | .decode => 0x06
  | .getpos => 0x07
  | .ismov => 0x08
  | .cancel => 0x09
  | .setcfg => 0x0A
  | .getcfg => 0x0B

/-- The packet length of each command (R71, R76). -/
def Opcode.length : Opcode → Nat
  | .init => 1
  | .move => 17
  | .home => 2
  | .wreg => 6
  | .rreg => 2
  | .decode => 5
  | .getpos => 1
  | .ismov => 1
  | .cancel => 1
  | .setcfg => 6
  | .getcfg => 2

/-- The assigned opcodes, in the order of R71. -/
def Opcode.all : List Opcode :=
  [.init, .move, .home, .wreg, .rreg, .decode, .getpos, .ismov, .cancel, .setcfg, .getcfg]

/-- The command an opcode byte names, if it is assigned (R71, R74). -/
def opcodeOf (b : Byte) : Option Opcode := Opcode.all.find? fun o => o.byte == b

/-- `DIR`: 1 is toward larger `position`, 0 toward smaller (R73). -/
def signOfBit (b : Bool) : Sign := if b then .plus else .minus

/-- `PRED`: 0 is the stall-flag predicate, 1 the analog one (R73). -/
def predOfBit (b : Bool) : Pred := if b then .predAnalog else .predFlag

/-- `INIT`, `GETPOS`, `ISMOV` and `CANCEL` have no operand byte (R72). -/
def decodeNone (i : Instr) (ops : List Byte) : Decoded :=
  match ops with
  | [] => .instr i
  | _ => .illegal .wrongLength

/-- Operands of `MOVE` (R72, R73). -/
def decodeMove (ops : List Byte) : Decoded :=
  match ops with
  | [t3, t2, t1, t0, i3, i2, i1, i0, m3, m2, m1, m0, o3, o2, o1, o0] =>
    .instr (.move (be32 t3 t2 t1 t0) (be32 i3 i2 i1 i0) (be32 m3 m2 m1 m0) (be32 o3 o2 o1 o0))
  | _ => .illegal .wrongLength

/-- Operands of `HOME`: the flags byte (R72, R73, R74). -/
def decodeHome (ops : List Byte) : Decoded :=
  match ops with
  | [f] =>
    if f.extractLsb' 2 6 = 0 then .instr (.home (signOfBit (f.getLsbD 0)) (predOfBit (f.getLsbD 1)))
    else .illegal .reservedFlagBits
  | _ => .illegal .wrongLength

/-- Operands of `WREG` (R72, R73, R74). -/
def decodeWreg (ops : List Byte) : Decoded :=
  match ops with
  | [a, v3, v2, v1, v0] =>
    if a.getLsbD 7 then .illegal .addressTooLarge else .instr (.wreg (a.setWidth 7) (be32 v3 v2 v1 v0))
  | _ => .illegal .wrongLength

/-- Operands of `RREG` (R72, R73, R74). -/
def decodeRreg (ops : List Byte) : Decoded :=
  match ops with
  | [a] => if a.getLsbD 7 then .illegal .addressTooLarge else .instr (.rreg (a.setWidth 7))
  | _ => .illegal .wrongLength

/-- Operands of `DECODE` (R72, R73). -/
def decodeDecode (ops : List Byte) : Decoded :=
  match ops with
  | [w3, w2, w1, w0] => .instr (.decode (be32 w3 w2 w1 w0))
  | _ => .illegal .wrongLength

/-- Operands of `SETCFG` (R72, R73). -/
def decodeSetcfg (ops : List Byte) : Decoded :=
  match ops with
  | [x, v3, v2, v1, v0] => .instr (.setcfg x (be32 v3 v2 v1 v0))
  | _ => .illegal .wrongLength

/-- Operands of `GETCFG` (R72, R73). -/
def decodeGetcfg (ops : List Byte) : Decoded :=
  match ops with
  | [x] => .instr (.getcfg x)
  | _ => .illegal .wrongLength

/-- The bytes after the opcode, by command (R72). -/
def decodeOperands (o : Opcode) (ops : List Byte) : Decoded :=
  match o with
  | .init => decodeNone .init ops
  | .move => decodeMove ops
  | .home => decodeHome ops
  | .wreg => decodeWreg ops
  | .rreg => decodeRreg ops
  | .decode => decodeDecode ops
  | .getpos => decodeNone .getpos ops
  | .ismov => decodeNone .ismov ops
  | .cancel => decodeNone .cancel ops
  | .setcfg => decodeSetcfg ops
  | .getcfg => decodeGetcfg ops

/-- A packet delivered at the command port (R70 to R74). -/
def decodeCommand (p : List Byte) : Decoded :=
  match p with
  | [] => .illegal .emptyPacket
  | b :: ops =>
    match opcodeOf b with
    | none => .illegal .unassignedOpcode
    | some o => decodeOperands o ops

/-- A frame on the wire (R60 to R62, R64). -/
def decodeFrame (f : List Byte) : Decoded :=
  match f with
  | [h, d3, d2, d1, d0] =>
    if h.getLsbD 7 then .instr (.wframe (h.setWidth 7) (be32 d3 d2 d1 d0))
    else if be32 d3 d2 d1 d0 = 0 then .instr (.rframe (h.setWidth 7))
    else .illegal .payloadOnRead
  | _ => .illegal .wrongLength

/-- The decoder of each port. -/
def decodeAt (port : Port) (bytes : List Byte) : Decoded :=
  match port with
  | .command => decodeCommand bytes
  | .wire => decodeFrame bytes

/-! ### The encoder -/

/-- The flags byte of `HOME`: `F[0] = DIR`, `F[1] = PRED`, `F[7:2] = 0` (R72, R73). -/
def homeFlags (dir : Sign) (pred : Pred) : Byte :=
  (match pred with | .predFlag => 0 | .predAnalog => 2) + (match dir with | .minus => 0 | .plus => 1)

/-- The bytes of an instruction, in the order sent (R61, R62, R72). -/
def encode : Instr → List Byte
  | .init => [0x01]
  | .move t i m o => 0x02 :: (bytesBe32 t ++ bytesBe32 i ++ bytesBe32 m ++ bytesBe32 o)
  | .home dir pred => [0x03, homeFlags dir pred]
  | .wreg a v => 0x04 :: (0#1 ++ a) :: bytesBe32 v
  | .rreg a => [0x05, 0#1 ++ a]
  | .decode w => 0x06 :: bytesBe32 w
  | .getpos => [0x07]
  | .ismov => [0x08]
  | .cancel => [0x09]
  | .setcfg x v => 0x0A :: x :: bytesBe32 v
  | .getcfg x => [0x0B, x]
  | .wframe a v => (writeFrame a v).toList
  | .rframe a => (readFrame a).toList

/-! ### Words as the opcode table numbers them -/

/-- The low `8*k` bits of a number as `k` bytes, most significant first. -/
def bytesOfNat : Nat → Nat → List Byte
  | 0, _ => []
  | k + 1, w => BitVec.ofNat 8 (w / 256 ^ k) :: bytesOfNat k w

/-- The bytes of a table word. The table reads a packet or frame as one big-endian number, byte 0 most
significant (`30_encoding.md`, opening). Operand bytes a row is given no bits for are zeros; five bytes are a whole
frame or a whole `DECODE`, so nothing is added to them. Assumption 12. -/
def tableBytes (nbits w : Nat) : List Byte :=
  match bytesOfNat (nbits / 8) w with
  | [] => []
  | [b, d3, d2, d1, d0] => [b, d3, d2, d1, d0]
  | b :: rest =>
    match opcodeOf b with
    | none => b :: rest
    | some o => b :: (rest ++ List.replicate (o.length - (rest.length + 1)) 0)

/-- The instruction the decoder reads from a table word: a legal command packet is read as that command, any
other five bytes as a wire frame. Assumption 12. -/
def decodeTableWord (nbits w : Nat) : Option Instr :=
  match decodeCommand (tableBytes nbits w) with
  | .instr i => some i
  | .illegal _ =>
    match decodeFrame (tableBytes nbits w) with
    | .instr i => some i
    | .illegal _ => none

end Sys2Proof
end

