-- ==== Sys2Proof/Config.lean ====
section
/-! DEFINITION. What an implementation fixes (the spec's OPEN parameters that a rule reads) and the free
values (the spec's draws). None of the constants declared `opaque` has a body: no proof can learn its
value, so a statement about the model holds whatever it is.

The OPEN parameters `TIME_UNIT`, `PULSE_WIDTH`, `BUS_TIMEOUT`, `SPI_MODE`, `SPI_BIT_ORDER` and `SCLK_RATE`
have no constant here: no rule reads them (`00_scope.md` R6, `92_eei_decisions.md`, last section). -/

namespace Sys2Proof

/-- One field table entry: bit position and width of a status field (`10_state.md` R26). -/
structure FieldEntry where
  lsb   : BitVec 5
  width : BitVec 6
  deriving DecidableEq, Repr, Inhabited

/-- The capability descriptor: status register address and the eight field entries (`10_state.md` R27). -/
structure Descriptor where
  statusAddr : Addr
  fields     : Vector FieldEntry 8
  deriving DecidableEq, Repr

/-- What one bus transaction yields: the five received bytes, or a failure (`41_register_client.md` R120). -/
inductive TxnOutcome where
  | ok (rx : Bytes5)
  | fail
  deriving DecidableEq, Repr, Inhabited

namespace Config

/-- `REVPAUSE_RESET`, OPEN (`00_scope.md` R6, decision D11). Assumption 3. -/
opaque revpauseReset : Word

/-- `DESC_RESET.statusAddr`, OPEN (`10_state.md` R27, decision D21). Assumption 3. -/
opaque descStatusAddr : Addr

/-- The eight pairs of `DESC_RESET`, OPEN, before the bound of `10_state.md` R26 is imposed. Assumption 3. -/
opaque descFieldRaw : Fin 8 → FieldEntry

/-- Level of the chip-select line when asserted, OPEN (`92_eei_decisions.md` D19); read by a pin only. -/
opaque csActiveLevel : Bool

/-- The bus oracle: what the `n`-th free draw answers a transaction (`20_memory.md` R48, D17). Assumption 4. -/
opaque busAnswer : Nat → TxnOutcome

/-- The free value of byte 0 of a reply of the reference peer (`20_memory.md` R47, R48). Assumption 4. -/
opaque freeByte : Nat → Byte

/-- The free staged reply a write leaves in the reference peer (`20_memory.md` R47, R48). Assumption 4. -/
opaque freeWord : Nat → Word

/-- Imposes `LSB + WIDTH <= 32` (`10_state.md` R26): a pair that keeps it is kept as it is, so every legal
descriptor remains possible; any other pair becomes the absent field (width 0). -/
def legalEntry (e : FieldEntry) : FieldEntry :=
  if e.lsb.toNat + e.width.toNat ≤ 32 then e else ⟨e.lsb, 0⟩

/-- `DESC_RESET`, the capability descriptor after reset (`10_state.md` R27). -/
def descReset : Descriptor :=
  ⟨descStatusAddr, Vector.ofFn fun k => legalEntry (descFieldRaw k)⟩

/-- `DESC_TMC`, the one instance the spec gives, for tests only (`10_state.md` R27; general knowledge, G1). -/
def descTmc : Descriptor :=
  ⟨0x6F, #v[⟨24, 1⟩, ⟨31, 1⟩, ⟨16, 5⟩, ⟨29, 1⟩, ⟨30, 1⟩, ⟨26, 1⟩, ⟨25, 1⟩, ⟨0, 10⟩]⟩

end Config

end Sys2Proof
end

