-- ==== Sys2Proof/Machine/State.lean ====
section
/-! DEFINITION. The state of the XEM motion core as plain data (`10_state.md`), the bus peer and the pending
inputs of its two other agents (`00_scope.md` R7), the reasons a step can stop, and the state after reset
(`10_state.md` R34). -/

namespace Sys2Proof.Machine

/-! ### Registers -/

/-- The operation in progress (`10_state.md` R20). -/
inductive Op where
  | opNone
  | opMove
  | opHome
  | opWreg
  | opRreg
  deriving DecidableEq, Repr

/-- The boundary the sequencer stands at (`10_state.md` R20). Step indices are mathematical integers. -/
inductive Seq where
  | idle
  | fwd (i : Nat)
  | rev (j : Nat)
  | seekStep
  | seekT1
  | seekT2
  | wrT
  | rdT1
  | rdT2
  deriving DecidableEq, Repr

/-- The homing state (`10_state.md` R21). -/
inductive HState where
  | hIdle
  | hSeeking
  | hConfirmed
  | hZeroed
  deriving DecidableEq, Repr

/-- Who started a profile run (`10_state.md` R13). -/
inductive Ctx where
  | ctxMove
  | ctxHome
  deriving DecidableEq, Repr

/-- The completion codes (`60_exceptions.md` R181). `persistenceError` is reserved and never generated. -/
inductive Code where
  | ok
  | configurationError
  | busError
  | homingTimeout
  | persistenceError
  | cancelled
  | busy
  | illegalCommand
  | notInitialized
  deriving DecidableEq, Repr

/-- The request latch (`10_state.md` R12). -/
structure Req where
  target : Word
  d0     : Word
  dm     : Word
  ovs    : Word
  deriving DecidableEq, Repr

/-- The profile latch (`10_state.md` R13); counts are the spec's mathematical integers. -/
structure Prof where
  sign  : Sign
  n     : Nat
  total : Nat
  ramp  : Nat
  d0    : Word
  dm    : Word
  ovs   : Word
  start : Word
  net   : Int
  ctx   : Ctx
  deriving DecidableEq, Repr

/-- The bus latches (`10_state.md` R14). -/
structure BusLatch where
  addr   : Addr
  wdata  : Word
  rx     : Bytes5
  result : Word
  deriving DecidableEq, Repr

/-- The homing counters (`10_state.md` R15). -/
structure Hom where
  sign : Sign
  pred : Pred
  s    : Word
  c    : Word
  deriving DecidableEq, Repr

/-- The output lines as logical registers (`10_state.md` R16). -/
structure Lines where
  stepLine : Bool
  dirSign  : Sign
  enableOn : Bool
  csOn     : Bool
  deriving DecidableEq, Repr

/-- The names of the field table's entries, in index order (`10_state.md` R26). -/
inductive FieldName where
  | stallFlag
  | standstill
  | currentScale
  | openLoadA
  | openLoadB
  | tempWarning
  | tempShutdown
  | stallMagnitude
  deriving DecidableEq, Repr

/-- The configuration registers (`10_state.md` R29, R30) and the field table (R26). `pincfg` holds bits 2:0,
the others being reserved; `statusaddr` holds an address, larger values being refused. -/
structure Cfg where
  pincfg     : BitVec 3
  revpause   : Word
  seekdelay  : Word
  homebudget : Word
  homeoffset : Word
  homen      : Word
  sgthresh   : Word
  boidelay   : Word
  bomdelay   : Word
  statusaddr : Addr
  fields     : Vector FieldEntry 8
  deriving DecidableEq, Repr

/-! ### The output trace -/

/-- What is visible outside the block (`10_state.md` R33). Delays are exact rationals (`40_ramp_timer.md` R94). -/
inductive Event where
  /-- `EvEnable(b)`. -/
  | evEnable (b : Bool)
  /-- `EvDir(s)`. -/
  | evDir (s : Sign)
  /-- `EvStep(d)`: one pulse, then a wait of `d` time units. -/
  | evStep (d : Rat)
  /-- `EvPause(d)`: a wait with no pulse. -/
  | evPause (d : Nat)
  /-- `EvTxn(tx, rx)`: one successful transaction. -/
  | evTxn (tx rx : Bytes5)
  /-- `EvTxnFail(tx)`: one failed transaction. -/
  | evTxnFail (tx : Bytes5)
  /-- `EvResp(cmd, code, payload)`: a response packet. -/
  | evResp (cmd : Byte) (code : Code) (payload : List Byte)
  deriving DecidableEq, Repr

/-! ### The bus peer and the host -/

/-- The chip register space as bytes: cell `4*a + k` is byte `k` (0 most significant) of register `a`. Addresses
rise strictly and no listed byte is 0, which is what an unlisted cell reads as. Assumption 2. -/
abbrev Memory := List Host.Cell

/-- Who answers a transaction that the script below says nothing of (`20_memory.md` R48): the oracle, whose
answers are free, or the reference peer. -/
inductive PeerMode where
  | oracle
  | reference
  deriving DecidableEq, Repr

/-- One scripted answer of the bus: a given outcome, or "the reference peer answers". -/
inductive PeerEntry where
  | answer (o : TxnOutcome)
  | refer
  deriving DecidableEq, Repr

/-- The driver chip on the far side of the bus (`20_memory.md` R47, R48): the answers already settled for
the next transactions, who answers after them, and the reference peer's registers and staged reply. -/
structure Peer where
  mode   : PeerMode
  script : List PeerEntry
  mem    : Memory
  staged : Word
  deriving DecidableEq, Repr

/-- What can happen next at a boundary (`43_host_commands.md` R160). -/
inductive Input where
  /-- The host delivers a packet. -/
  | packet (p : List Byte)
  /-- The sequencer takes its next action. -/
  | act
  /-- The driver chip changes one of its own registers (`41_register_client.md` R124). -/
  | chipSet (a : Addr) (v : Word)
  /-- The reset input is applied (`70_reset_and_hazards.md` R210). -/
  | reset
  deriving DecidableEq, Repr

/-! ### The state -/

/-- The whole machine. The block: `position` to `out`. The other two agents: `peer`, and `agenda`, the inputs
still to come, in order (when it is empty the sequencer acts). The model's own: `draws`, which counts the
free values used. -/
structure State where
  position    : Word
  req         : Req
  prof        : Prof
  bus         : BusLatch
  hom         : Hom
  lines       : Lines
  op          : Op
  seq         : Seq
  hstate      : HState
  isMoving    : Bool
  initialized : Bool
  cancelReq   : Bool
  lastCode    : Code
  cfg         : Cfg
  out         : List Event
  peer        : Peer
  agenda      : List Input
  draws       : Nat
  deriving DecidableEq, Repr

/-! ### Stops -/

/-- Reasons the machine stops with a fault. There are none: "Nothing in the block is `stuck`"
(`93_implementation_defined.md`, part 1), and every error is a completion code (`60_exceptions.md` R180). -/
inductive Fault where
  deriving DecidableEq, Repr

/-- Reasons an instruction is refused by the model. -/
inductive Refusal where
  /-- Raised by `exec` for an instruction that has no meaning yet (none is left). Safe: the model stops where
  the hardware goes on. -/
  | notModelled (mnemonic : String)
  deriving DecidableEq, Repr

/-- What an instruction or a step answers. -/
abbrev Result := Host.Outcome State Fault Refusal

/-! ### Reset -/

/-- The latches after reset. The spec leaves them unspecified (`10_state.md` R12 to R15, R34); the model names
zero, `+1`, `PredFlag` and `CtxMove`. Assumption 1. -/
def Req.reset : Req := ⟨0, 0, 0, 0⟩

/-- See `Req.reset`. -/
def Prof.reset : Prof := ⟨.plus, 0, 0, 0, 0, 0, 0, 0, 0, .ctxMove⟩

/-- See `Req.reset`. -/
def BusLatch.reset : BusLatch := ⟨0, 0, ⟨0, 0, 0, 0, 0⟩, 0⟩

/-- See `Req.reset`. -/
def Hom.reset : Hom := ⟨.plus, .predFlag, 0, 0⟩

/-- The configuration registers after reset, for given OPEN parameters (`10_state.md` R29, R30, R34). -/
def Cfg.resetWith (desc : Descriptor) (revpause : Word) : Cfg where
  pincfg     := 1
  revpause   := revpause
  seekdelay  := 0
  homebudget := 0
  homeoffset := 100
  homen      := 2
  sgthresh   := 0
  boidelay   := 0
  bomdelay   := 0
  statusaddr := desc.statusAddr
  fields     := desc.fields

/-- The machine after reset for given OPEN parameters (`10_state.md` R34). The peer's fields, `agenda` and
`draws` are not the block's: Assumptions 4 and 5. -/
def State.resetWith (desc : Descriptor) (revpause : Word) : State where
  position    := 0
  req         := .reset
  prof        := .reset
  bus         := .reset
  hom         := .reset
  lines       := ⟨false, .plus, false, false⟩
  op          := .opNone
  seq         := .idle
  hstate      := .hIdle
  isMoving    := false
  initialized := false
  cancelReq   := false
  lastCode    := .ok
  cfg         := .resetWith desc revpause
  out         := []
  peer        := ⟨.oracle, [], [], 0⟩
  agenda      := []
  draws       := 0

/-- The machine right after reset (`10_state.md` R34, `70_reset_and_hazards.md` R210). -/
def State.reset : State := State.resetWith Config.descReset Config.revpauseReset

end Sys2Proof.Machine
end

