-- ==== Sys2Proof/Machine/Ops.lean ====
section
/-! DEFINITION. The named operations of the machine: the chip register space, the output trace, responses and
completions (the block's only exceptions), the output lines, the bus transaction, and reset. -/

namespace Sys2Proof.Machine

/-! ### The chip register space (`20_memory.md` R40, R48) -/

/-- What an unlisted cell reads as. Assumption 2. -/
def Memory.unlisted : Byte := 0

/-- The byte in a cell. -/
def Memory.readByte : Memory → Nat → Byte
  | [], _ => Memory.unlisted
  | (b, v) :: rest, a => if a = b then v else Memory.readByte rest a

/-- Stores a byte, keeping the canonical form. -/
def Memory.writeByte : Memory → Nat → Byte → Memory
  | [], a, v => if v = Memory.unlisted then [] else [(a, v)]
  | (b, w) :: rest, a, v =>
    if a < b then (if v = Memory.unlisted then (b, w) :: rest else (a, v) :: (b, w) :: rest)
    else if a = b then (if v = Memory.unlisted then rest else (a, v) :: rest)
    else (b, w) :: Memory.writeByte rest a v

/-- The number of cells: 128 registers of four bytes (`20_memory.md` R40). -/
def Memory.size : Nat := 512

/-- The canonical form from a lower bound on. -/
def Memory.wfFrom : Nat → Memory → Bool
  | _, [] => true
  | lo, (b, v) :: rest => decide (lo ≤ b ∧ b < Memory.size ∧ v ≠ Memory.unlisted) && Memory.wfFrom (b + 1) rest

/-- The canonical form: addresses strictly rising and below `Memory.size`, no entry equal to the unlisted byte. -/
def Memory.wf (m : Memory) : Bool := Memory.wfFrom 0 m

/-- The cell of byte `k` (0 most significant, as on the wire) of chip register `a`. -/
def cellOf (a : Addr) (k : Nat) : Nat := 4 * a.toNat + k

/-- The value of chip register `a` (`20_memory.md` R42). -/
def Memory.readReg (m : Memory) (a : Addr) : Word :=
  be32 (m.readByte (cellOf a 0)) (m.readByte (cellOf a 1)) (m.readByte (cellOf a 2)) (m.readByte (cellOf a 3))

/-- Sets chip register `a`. -/
def Memory.writeReg (m : Memory) (a : Addr) (v : Word) : Memory :=
  (((m.writeByte (cellOf a 0) (byteOf v 3)).writeByte (cellOf a 1) (byteOf v 2)).writeByte (cellOf a 2)
    (byteOf v 1)).writeByte (cellOf a 3) (byteOf v 0)

/-! ### Directions -/

/-- `+1` or `-1` as an integer. -/
def signToInt : Sign → Int
  | .plus => 1
  | .minus => -1

/-- The opposite direction. -/
def signFlip : Sign → Sign
  | .plus => .minus
  | .minus => .plus

/-- `sign(a)` of `00_scope.md` R8, used for non-zero `a`. -/
def signOfInt (a : Int) : Sign := if 0 < a then .plus else .minus

/-! ### Trace, responses, completions (`00_scope.md` R8) -/

/-- `emit E`: appends an event to the output trace (`10_state.md` R33). -/
def State.emit (e : Event) (s : State) : State := { s with out := s.out ++ [e] }

/-- The number of a completion code (`60_exceptions.md` R181). -/
def codeByte : Code → Byte
  | .ok => 0x00
  | .configurationError => 0x01
  | .busError => 0x02
  | .homingTimeout => 0x03
  | .persistenceError => 0x04
  | .cancelled => 0x05
  | .busy => 0x06
  | .illegalCommand => 0x07
  | .notInitialized => 0x08

/-- The opcode of the command that started an operation (`00_scope.md` R8); `0x00` when there is none, which
no rule asks for. -/
def opcodeOfOp : Op → Byte
  | .opNone => 0x00
  | .opMove => 0x02
  | .opHome => 0x03
  | .opWreg => 0x04
  | .opRreg => 0x05

/-- `respond(code, payload)`: answers a command that never became an operation. -/
def State.respond (cmd : Byte) (code : Code) (payload : List Byte) (s : State) : State :=
  s.emit (.evResp cmd code payload)

/-- A refusal: an error response with no other effect (`60_exceptions.md` R190, first row). -/
def State.refuse (cmd : Byte) (code : Code) (s : State) : State := s.respond cmd code []

/-- `complete(code, payload)`: ends the operation in progress (`00_scope.md` R8). -/
def State.complete (code : Code) (payload : List Byte) (s : State) : State :=
  { s.emit (.evResp (opcodeOfOp s.op) code payload) with
    seq := .idle, op := .opNone, lastCode := code, cancelReq := false }

/-- `raise X` inside an operation: the clean-up of `60_exceptions.md` R190 for `X`, then `complete(code(X), [])`
(`00_scope.md` R8). There is no return: the block is idle afterwards (`60_exceptions.md` R192). -/
def State.raise (cleanUp : State → State) (code : Code) (s : State) : State :=
  (cleanUp s).complete code []

/-- The clean-up of a failed HOME: `hstate <- HIdle; isMoving <- 0`, `position` not written (R148, R190). -/
def State.homeCleanUp (s : State) : State := { s with hstate := .hIdle, isMoving := false }

/-- The clean-up of a cancelled MOVE: `position` is the place reached (R101, R190). -/
def State.moveCleanUp (s : State) : State :=
  { s with
    position := BitVec.ofInt 32 (s.prof.start.toInt + signToInt s.prof.sign * s.prof.net), isMoving := false }

/-- The response packet of an event: `[code, cmd] ++ payload` (`30_encoding.md` R75). -/
def responsePacket : Event → Option (List Byte)
  | .evResp cmd code payload => some (codeByte code :: cmd :: payload)
  | _ => none

/-! ### When a packet is taken (`43_host_commands.md` R160) -/

/-- Runs a command that needs the sequencer, or refuses it `Busy`. -/
def State.whenIdle (cmd : Byte) (run : State → State) (s : State) : State :=
  if s.seq = .idle then run s else s.refuse cmd .busy

/-- Runs a command that needs INIT first, or refuses it `NotInitialized` (`10_state.md` R23). -/
def State.whenInitialized (cmd : Byte) (run : State → State) (s : State) : State :=
  if s.initialized then run s else s.refuse cmd .notInitialized

/-- Answers an illegal packet (`43_host_commands.md` R161): `cmd` is byte 0, or `0x00` when it is empty. -/
def State.refuseIllegal (p : List Byte) (s : State) : State := s.refuse (p.headD 0) .illegalCommand

/-! ### Output lines (`10_state.md` R16) -/

/-- One pulse and its wait: STEP rises, falls, and `EvStep(d)` is emitted (`40_ramp_timer.md` R97). -/
def State.pulse (d : Rat) (s : State) : State :=
  let high := { s with lines := { s.lines with stepLine := true } }
  { high with lines := { high.lines with stepLine := false } }.emit (.evStep d)

/-- `dirSign <- sg; emit EvDir(sg)` (`40_ramp_timer.md` R93). -/
def State.driveDir (sg : Sign) (s : State) : State :=
  { s with lines := { s.lines with dirSign := sg } }.emit (.evDir sg)

/-- `enableOn <- b; emit EvEnable(b)` (`43_host_commands.md` R162). -/
def State.driveEnable (b : Bool) (s : State) : State :=
  { s with lines := { s.lines with enableOn := b } }.emit (.evEnable b)

/-! ### The bus transaction (`41_register_client.md` R120) -/

/-- The reference peer's answer (`20_memory.md` R48). Byte 0, and the staged reply after a write, are free. -/
def State.chipAnswer (tx : Bytes5) (s : State) : TxnOutcome × State :=
  let rx := frameOf (Config.freeByte s.draws) s.peer.staged
  let a := tx.b0.setWidth 7
  if tx.b0.getLsbD 7 then
    (.ok rx, { s with
      peer := { s.peer with mem := s.peer.mem.writeReg a tx.payload, staged := Config.freeWord s.draws },
      draws := s.draws + 1 })
  else
    (.ok rx, { s with peer := { s.peer with staged := s.peer.mem.readReg a }, draws := s.draws + 1 })

/-- What the bus answers: the next scripted entry, else the oracle's free answer or the reference peer's
(`20_memory.md` R48). Assumption 4. A scripted or oracle answer, `ok` or `fail`, leaves the reference peer's registers
and staged reply as they are: DESIGN CHOICE, assumption 20 (the spec states it only of a failed write's register). -/
def State.peerAnswer (tx : Bytes5) (s : State) : TxnOutcome × State :=
  match s.peer.script with
  | .answer o :: rest => (o, { s with peer := { s.peer with script := rest } })
  | .refer :: rest => { s with peer := { s.peer with script := rest } }.chipAnswer tx
  | [] =>
    match s.peer.mode with
    | .oracle => (Config.busAnswer s.draws, { s with draws := s.draws + 1 })
    | .reference => s.chipAnswer tx

/-- `csOn <- b`. -/
def State.setCs (b : Bool) (s : State) : State := { s with lines := { s.lines with csOn := b } }

/-- What the block does with a transaction's outcome: `bus.rx <- rx` on success, and the event. -/
def State.latchReply (tx : Bytes5) (o : TxnOutcome) (s : State) : State :=
  match o with
  | .ok rx => { s with bus := { s.bus with rx := rx } }.emit (.evTxn tx rx)
  | .fail => s.emit (.evTxnFail tx)

/-- `Transact(tx)`: one atomic action (`41_register_client.md` R120). -/
def State.transact (tx : Bytes5) (s : State) : TxnOutcome × State :=
  let r := (s.setCs true).peerAnswer tx
  (r.1, (r.2.setCs false).latchReply tx r.1)

/-- The chip changes one of its own registers (`41_register_client.md` R124). -/
def State.chipSet (a : Addr) (v : Word) (s : State) : State :=
  { s with peer := { s.peer with mem := s.peer.mem.writeReg a v } }

/-! ### Reset (`70_reset_and_hazards.md` R210, R211) -/

/-- The reset input: the block is as after power-on, with no response; the chip is not reset, and the inputs
still to come and the free values already used are the world's. Assumption 6. -/
def State.applyReset (s : State) : State :=
  { State.reset with peer := s.peer, agenda := s.agenda, draws := s.draws }

end Sys2Proof.Machine
end

