-- ==== Sys2Proof/Machine/Operands.lean ====
section
/-! DEFINITION. The operand forms: configuration registers by index (`10_state.md` R28 to R31), field table
entries as words (`30_encoding.md` R79), status word fields (`41_register_client.md` R129), and the pin
levels the configuration decides (`10_state.md` R16). -/

namespace Sys2Proof.Machine

/-! ### PINCFG (`10_state.md` R29) -/

/-- `DIRPOS`: level of the DIR pin when `dirSign = +1`. -/
def Cfg.dirpos (c : Cfg) : Bool := c.pincfg.getLsbD 0

/-- `ENACT`: active level of the ENABLE pin. -/
def Cfg.enact (c : Cfg) : Bool := c.pincfg.getLsbD 1

/-- `PUBINC`: `position` follows every step of a MOVE. -/
def Cfg.pubinc (c : Cfg) : Bool := c.pincfg.getLsbD 2

/-! ### Pins (`10_state.md` R16) -/

/-- The level of the STEP output. -/
def State.stepPin (s : State) : Bool := s.lines.stepLine

/-- The level of the DIR output. -/
def State.dirPin (s : State) : Bool :=
  match s.lines.dirSign with
  | .plus => s.cfg.dirpos
  | .minus => !s.cfg.dirpos

/-- The level of the ENABLE output. -/
def State.enablePin (s : State) : Bool := if s.lines.enableOn then s.cfg.enact else !s.cfg.enact

/-- The level of the chip-select output. -/
def State.csPin (s : State) : Bool := if s.lines.csOn then Config.csActiveLevel else !Config.csActiveLevel

/-! ### The field table (`10_state.md` R26, `30_encoding.md` R79) -/

/-- `LSB + WIDTH <= 32` and so `WIDTH <= 32`: what SETCFG accepts (`43_host_commands.md` R167). -/
def fieldLegal (e : FieldEntry) : Bool := decide (e.width.toNat ≤ 32 ∧ e.lsb.toNat + e.width.toNat ≤ 32)

/-- `value[4:0] = LSB`, `value[13:8] = WIDTH`, other bits ignored (R79). -/
def fieldOfWord (v : Word) : FieldEntry := ⟨v.extractLsb' 0 5, v.extractLsb' 8 6⟩

/-- `LSB + WIDTH*2^8` (R79, R168). -/
def wordOfField (e : FieldEntry) : Word := (0#18 ++ e.width ++ 0#3 ++ e.lsb : BitVec 32)

/-- The index of a field by its name (`10_state.md` R26). -/
def fieldIndex : FieldName → Fin 8
  | .stallFlag => 0
  | .standstill => 1
  | .currentScale => 2
  | .openLoadA => 3
  | .openLoadB => 4
  | .tempWarning => 5
  | .tempShutdown => 6
  | .stallMagnitude => 7

/-- Field table entry by name. -/
def Cfg.field (c : Cfg) (k : FieldName) : FieldEntry := c.fields[fieldIndex k]

/-- `Field(k, w)` for an entry: `w[L+n-1 : L]`, 0 when the width is 0 (`41_register_client.md` R129). -/
def fieldValue (e : FieldEntry) (w : Word) : Word :=
  if e.width = 0 then 0 else BitVec.ofNat 32 (w.toNat / 2 ^ e.lsb.toNat % 2 ^ e.width.toNat)

/-- `decodeStatus`: the eight fields of a status word in index order (`41_register_client.md` R128). -/
def Cfg.decodeStatus (c : Cfg) (w : Word) : List Word := c.fields.toList.map fun e => fieldValue e w

/-- The stall predicate `Stall(w)` (`42_homing.md` R146). -/
def Cfg.stall (c : Cfg) (pred : Pred) (w : Word) : Bool :=
  match pred with
  | .predFlag => decide (fieldValue (c.field .stallFlag) w ≠ 0)
  | .predAnalog => decide ((fieldValue (c.field .stallMagnitude) w).toNat < c.sgthresh.toNat)

/-! ### Configuration registers by index (`10_state.md` R29 to R31) -/

/-- The configuration registers and STATUS. -/
inductive CfgReg where
  | pincfg
  | revpause
  | seekdelay
  | homebudget
  | homeoffset
  | homen
  | sgthresh
  | boidelay
  | bomdelay
  | statusaddr
  | field (k : FieldName)
  | status
  deriving DecidableEq, Repr

/-- The 8-bit index of each register. -/
def cfgIndex : CfgReg → Byte
  | .pincfg => 0x00
  | .revpause => 0x01
  | .seekdelay => 0x10
  | .homebudget => 0x11
  | .homeoffset => 0x12
  | .homen => 0x13
  | .sgthresh => 0x14
  | .boidelay => 0x15
  | .bomdelay => 0x16
  | .statusaddr => 0x17
  | .field k => BitVec.ofNat 8 (0x20 + (fieldIndex k).val)
  | .status => 0x7F

/-- The assigned registers, in index order. -/
def cfgRegs : List CfgReg :=
  [.pincfg, .revpause, .seekdelay, .homebudget, .homeoffset, .homen, .sgthresh, .boidelay, .bomdelay,
    .statusaddr, .field .stallFlag, .field .standstill, .field .currentScale, .field .openLoadA,
    .field .openLoadB, .field .tempWarning, .field .tempShutdown, .field .stallMagnitude, .status]

/-- The register an index names; every other index is unassigned (`10_state.md` R30). -/
def cfgRegOf (x : Byte) : Option CfgReg := cfgRegs.find? fun r => cfgIndex r == x

/-- The 32-bit value of a read-write register: reserved bits read as 0. STATUS is not held in `Cfg`. -/
def Cfg.read (c : Cfg) : CfgReg → Option Word
  | .pincfg => some (c.pincfg.setWidth 32)
  | .revpause => some c.revpause
  | .seekdelay => some c.seekdelay
  | .homebudget => some c.homebudget
  | .homeoffset => some c.homeoffset
  | .homen => some c.homen
  | .sgthresh => some c.sgthresh
  | .boidelay => some c.boidelay
  | .bomdelay => some c.bomdelay
  | .statusaddr => some (c.statusaddr.setWidth 32)
  | .field k => some (wordOfField (c.field k))
  | .status => none

/-- The effect of SETCFG on a register, `none` where the value or the register is refused
(`43_host_commands.md` R167). -/
def Cfg.write (c : Cfg) (r : CfgReg) (v : Word) : Option Cfg :=
  match r with
  | .pincfg => some { c with pincfg := v.setWidth 3 }
  | .revpause => some { c with revpause := v }
  | .seekdelay => some { c with seekdelay := v }
  | .homebudget => some { c with homebudget := v }
  | .homeoffset => some { c with homeoffset := v }
  | .homen => some { c with homen := v }
  | .sgthresh => some { c with sgthresh := v }
  | .boidelay => some { c with boidelay := v }
  | .bomdelay => some { c with bomdelay := v }
  | .statusaddr => if 0x7F < v.toNat then none else some { c with statusaddr := v.setWidth 7 }
  | .field k =>
    if fieldLegal (fieldOfWord v) then
      some { c with fields := c.fields.set (fieldIndex k).val (fieldOfWord v) (fieldIndex k).isLt }
    else none
  | .status => none

/-- A delay pair is valid when `initialDelay >= minDelay > 0` (`10_state.md` R12, `40_ramp_timer.md` R91 line 2). -/
def delaysValid (d0 dm : Word) : Bool := decide (¬(d0 = 0 ∨ dm = 0 ∨ d0.toNat < dm.toNat))

/-- The position `n`, as the 32-bit pattern `enc_s32(n)` (`00_scope.md` R8). -/
def encS32 (n : Int) : Word := BitVec.ofInt 32 n

/-- `-2^31 <= n <= 2^31-1` (`40_ramp_timer.md` R91 line 7). -/
def fitsS32 (n : Int) : Bool := decide (-2 ^ 31 ≤ n ∧ n ≤ 2 ^ 31 - 1)

end Sys2Proof.Machine
end

