-- ==== Sys2Proof/Machine/Flags.lean ====
section
/-! DEFINITION. The flags (`10_state.md` R22 to R25) where an instruction computes with them: the STATUS
register (R31), the cancel request (R24) and the answer of ISMOV. There are no arithmetic condition codes. -/

namespace Sys2Proof.Machine

/-- `hstate` in STATUS bits 5:4 (`10_state.md` R31). -/
def hstateBits : HState → BitVec 2
  | .hIdle => 0
  | .hSeeking => 1
  | .hConfirmed => 2
  | .hZeroed => 3

/-- `op` in STATUS bits 10:8 (`10_state.md` R31). -/
def opBits : Op → BitVec 3
  | .opNone => 0
  | .opMove => 1
  | .opHome => 2
  | .opWreg => 3
  | .opRreg => 4

/-- The STATUS register, assembled from the live state (`10_state.md` R31): from bit 31 down, reserved,
LASTCODE, reserved, OP, reserved, HSTATE, reserved, CANCELP, INITD, MOVING. -/
def State.status (s : State) : Word :=
  (0#8 ++ codeByte s.lastCode ++ 0#5 ++ opBits s.op ++ 0#2 ++ hstateBits s.hstate ++ 0#1
    ++ BitVec.ofBool s.cancelReq ++ BitVec.ofBool s.initialized ++ BitVec.ofBool s.isMoving : BitVec 32)

/-- The value GETCFG reads: STATUS from the live state, the others from their registers (R168). -/
def State.readCfg (r : CfgReg) (s : State) : Word := (s.cfg.read r).getD s.status

/-- `if op = OpMove or op = OpHome then cancelReq <- 1` (`43_host_commands.md` R166). -/
def State.requestCancel (s : State) : State :=
  match s.op with
  | .opMove => { s with cancelReq := true }
  | .opHome => { s with cancelReq := true }
  | .opNone => s
  | .opWreg => s
  | .opRreg => s

/-- `0x01` if `isMoving`, else `0x00` (`43_host_commands.md` R164). -/
def State.movingByte (s : State) : Byte := if s.isMoving then 0x01 else 0x00

end Sys2Proof.Machine
end

