-- ==== Sys2Proof/Machine/Profile.lean ====
section
/-! DEFINITION. The profile engine: starting a run (`40_ramp_timer.md` R93), the delay of each step (R94), the
phase of each step (R103), and publishing a step's position (R97, R98, R100). -/

namespace Sys2Proof.Machine

/-- The larger of two rationals (`00_scope.md` R8). -/
def maxRat (a b : Rat) : Rat := if a < b then b else a

/-- The source's `delayDecrement`: the exact quotient, formed when `ramp > 0` (R94, R96). -/
def Prof.dec (p : Prof) : Rat := ((p.d0.toNat : Rat) - (p.dm.toNat : Rat)) / (p.ramp : Rat)

/-- `Delay(i)`, the wait after forward step `i` (R94). -/
def Prof.delay (p : Prof) (i : Nat) : Rat :=
  if p.ramp = 0 then (p.dm.toNat : Rat)
  else if i < p.ramp then maxRat ((p.d0.toNat : Rat) - p.dec * ((i : Rat) + 1)) (p.dm.toNat : Rat)
  else if p.total - p.ramp ≤ i then
    (p.dm.toNat : Rat) + p.dec * (((i - (p.total - p.ramp) : Nat) : Rat) + 1)
  else (p.dm.toNat : Rat)

/-- The phases of a run (R103). -/
inductive Phase where
  | accel
  | plateau
  | decel
  | reverse
  deriving DecidableEq, Repr

/-- The phase of forward step `i` (R103). -/
def Prof.phase (p : Prof) (i : Nat) : Phase :=
  if 0 < p.ramp ∧ i < p.ramp then .accel
  else if 0 < p.ramp ∧ p.total - p.ramp ≤ i then .decel
  else .plateau

/-- The phase of the step the sequencer stands at, if it is a step of a profile run (R103). -/
def State.phase (s : State) : Option Phase :=
  match s.seq with
  | .fwd i => some (s.prof.phase i)
  | .rev _ => some .reverse
  | _ => none

/-- The profile latch of a new run from `start` (R93). -/
def profOf (sg : Sign) (n : Nat) (ovs d0 dm start : Word) (ctx : Ctx) : Prof where
  sign  := sg
  n     := n
  total := n + ovs.toNat
  ramp  := (n + ovs.toNat) / 2
  d0    := d0
  dm    := dm
  ovs   := ovs
  start := start
  net   := 0
  ctx   := ctx

/-- `StartProfile(s, n, ovs, d0, dm, ctx)` (R93). -/
def State.startProfile (sg : Sign) (n : Nat) (ovs d0 dm : Word) (ctx : Ctx) (s : State) : State :=
  { { s with prof := profOf sg n ovs d0 dm s.position ctx }.driveDir sg with seq := .fwd 0 }

/-- Counts one issued step in direction `dir` relative to the run (`+1` forward, `-1` reverse), and publishes
`position` when `PUBINC = 1` and the run belongs to a MOVE (R97, R98). -/
def State.countStep (dir : Int) (s : State) : State :=
  { s with
    prof := { s.prof with net := s.prof.net + dir },
    position :=
      if s.cfg.pubinc = true ∧ s.prof.ctx = .ctxMove then
        encS32 (s.position.toInt + dir * signToInt s.prof.sign)
      else s.position }

end Sys2Proof.Machine
end

