-- ==== Sys2Proof/Machine/Homing.lean ====
section
/-! DEFINITION. The homing state machine: HOME (`42_homing.md` R141, R142) and its actions (R143 to R148). -/

namespace Sys2Proof.Machine

/-- `HomeAbort(code)` (R148). -/
def State.homeAbort (code : Code) (s : State) : State := s.raise State.homeCleanUp code

/-- `HomeZero()` (R147). -/
def State.homeZero (s : State) : State :=
  { s with hstate := .hZeroed, position := 0, isMoving := false }.complete .ok []

/-- `Confirm()` (R145). -/
def State.confirm (s : State) : State :=
  if s.cfg.homeoffset = 0 then { s with hstate := .hConfirmed }.homeZero
  else
    { s with hstate := .hConfirmed }.startProfile (signFlip s.hom.sign) s.cfg.homeoffset.toNat 0 s.cfg.boidelay
      s.cfg.bomdelay .ctxHome

/-- The seek step, the action at `SeekStep` (R143). -/
def State.seekStep (s : State) : State :=
  if s.cancelReq then s.homeAbort .cancelled
  else if s.cfg.homebudget.toNat ≤ s.hom.s.toNat then s.homeAbort .homingTimeout
  else
    { s.pulse (s.cfg.seekdelay.toNat : Rat) with hom := { s.hom with s := s.hom.s + 1 }, seq := .seekT1 }

/-- The consecutive confirming reads after a status read of `w` (R144). -/
def State.debounced (w : Word) (s : State) : Word :=
  if s.cfg.stall s.hom.pred w then s.hom.c + 1 else 0

/-- What the action at `SeekT2` does with the status word `w` (R144). -/
def State.takeStatus (w : Word) (s : State) : State :=
  let s' := { s with bus := { s.bus with result := w }, hom := { s.hom with c := s.debounced w } }
  if s'.cfg.homen.toNat ≤ s'.hom.c.toNat then s'.confirm else { s' with seq := .seekStep }

/-- The tests of R142 line 2: HOME is refused unless its configuration is usable. -/
def Cfg.homeReady (c : Cfg) (pred : Pred) : Bool :=
  decide (c.seekdelay ≠ 0) && decide (c.homen ≠ 0) && delaysValid c.boidelay c.bomdelay &&
    (match pred with
      | .predFlag => decide ((c.field .stallFlag).width ≠ 0)
      | .predAnalog => decide ((c.field .stallMagnitude).width ≠ 0))

/-- The start action of HOME after its `NotInitialized` test (R142 lines 2 to 7). -/
def State.startHome (dir : Sign) (pred : Pred) (s : State) : State :=
  if s.cfg.homeReady pred then
    { { s with
        hom := ⟨dir, pred, 0, 0⟩, op := .opHome, isMoving := true, hstate := .hSeeking }.driveDir dir with
      seq := .seekStep }
  else s.refuse Opcode.home.byte .configurationError

/-- `HOME dir, pred` (R141, R142). -/
def execHome (dir : Sign) (pred : Pred) (s : State) : Result :=
  .next (s.whenIdle Opcode.home.byte (State.whenInitialized Opcode.home.byte (State.startHome dir pred)))

end Sys2Proof.Machine
end

