-- ==== Sys2Proof/Machine/Client.lean ====
section
/-! DEFINITION. The register protocol client: WREG, RREG, DECODE (`41_register_client.md` R126 to R128), and the
two wire frames (`30_encoding.md` R61, R62). A frame is executed by the transaction that sends it, together
with what the operation that built it does with the outcome: the frame's action is one atomic action of the
sequencer (`10_state.md` R20). -/

namespace Sys2Proof.Machine

/-- The action that takes WREG (R126 action 1). -/
def State.startWreg (a : Addr) (v : Word) (s : State) : State :=
  { s with bus := { s.bus with addr := a, wdata := v }, op := .opWreg, seq := .wrT }

/-- The action that takes RREG (R127 action 1). -/
def State.startRreg (a : Addr) (s : State) : State :=
  { s with bus := { s.bus with addr := a }, op := .opRreg, seq := .rdT1 }

/-- `complete(BusError, [])` of WREG and RREG: nothing to clean up (R126, R127, `60_exceptions.md` R190). -/
def State.busFailure (s : State) : State := s.raise id .busError

/-- `bus.result <- r; complete(OK, bytes_be32(r))` (R127 action 3). -/
def State.completeRead (r : Word) (s : State) : State :=
  { s with bus := { s.bus with result := r } }.complete .ok (bytesBe32 r)

/-- What follows the transaction of a write frame: at `WrT` the WREG ends (R126 action 2); at any other boundary
no operation waits for a write frame. The boundary alone decides: that a frame other than the latched one, which
the block never sends, serves the waiting WREG all the same is the model's choice. DESIGN CHOICE, assumption 12. -/
def State.afterWrite (o : TxnOutcome) (s : State) : State :=
  match s.seq with
  | .wrT =>
    match o with
    | .ok _ => s.complete .ok []
    | .fail => s.busFailure
  | _ => s

/-- What follows the transaction of a read frame: the next action of RREG (R127 actions 2 and 3) or of the status
read of HOME (`42_homing.md` R144); at any other boundary no operation waits for a read frame. The boundary alone
decides: that a frame with another address than the operation's, which the block never sends, serves the waiting
operation all the same is the model's choice. DESIGN CHOICE, assumption 12. -/
def State.afterRead (o : TxnOutcome) (s : State) : State :=
  match s.seq with
  | .rdT1 =>
    match o with
    | .ok _ => { s with seq := .rdT2 }
    | .fail => s.busFailure
  | .rdT2 =>
    match o with
    | .ok rx => s.completeRead rx.payload
    | .fail => s.busFailure
  | .seekT1 =>
    match o with
    | .ok _ => { s with seq := .seekT2 }
    | .fail => s.homeAbort .busError
  | .seekT2 =>
    match o with
    | .ok rx => s.takeStatus rx.payload
    | .fail => s.homeAbort .busError
  | _ => s

/-- The frame the sequencer sends in its next action, if that action is a transaction (`10_state.md` R20). -/
def State.pendingFrame (s : State) : Option Instr :=
  match s.seq with
  | .wrT => some (.wframe s.bus.addr s.bus.wdata)
  | .rdT1 => some (.rframe s.bus.addr)
  | .rdT2 => some (.rframe s.bus.addr)
  | .seekT1 => some (.rframe s.cfg.statusaddr)
  | .seekT2 => some (.rframe s.cfg.statusaddr)
  | _ => none

/-- `WREG addr, value` (R126). -/
def execWreg (a : Addr) (v : Word) (s : State) : Result :=
  .next (s.whenIdle Opcode.wreg.byte (State.whenInitialized Opcode.wreg.byte (State.startWreg a v)))

/-- `RREG addr` (R127). -/
def execRreg (a : Addr) (s : State) : Result :=
  .next (s.whenIdle Opcode.rreg.byte (State.whenInitialized Opcode.rreg.byte (State.startRreg a)))

/-- `DECODE word` (R128). -/
def execDecode (w : Word) (s : State) : Result :=
  .next (s.respond Opcode.decode.byte .ok ((s.cfg.decodeStatus w).flatMap bytesBe32))

/-- `WFRAME(a, v)`: the transaction that sends it and what follows (R61, R120, R126 action 2). -/
def execWframe (a : Addr) (v : Word) (s : State) : Result :=
  .next ((s.transact (writeFrame a v)).2.afterWrite (s.transact (writeFrame a v)).1)

/-- `RFRAME(a)`: the transaction that sends it and what follows (R62, R120, R127 actions 2 and 3, R144). -/
def execRframe (a : Addr) (s : State) : Result :=
  .next ((s.transact (readFrame a)).2.afterRead (s.transact (readFrame a)).1)

end Sys2Proof.Machine
end

