-- ==== Sys2Proof/Machine/Ramp.lean ====
section
/-! DEFINITION. The ramp timer: MOVE (`40_ramp_timer.md` R91) and the step actions it shares with the back-off
of HOME (R97 to R101). -/

namespace Sys2Proof.Machine

/-- `Finish()`, in the action of the last step (R99). -/
def State.finish (s : State) : State :=
  match s.prof.ctx with
  | .ctxMove => { s with position := s.req.target, isMoving := false }.complete .ok []
  | .ctxHome => s.homeZero

/-- `Cancel()`, at a step boundary before the pulse (R101). -/
def State.cancelRun (s : State) : State :=
  match s.prof.ctx with
  | .ctxMove => s.raise State.moveCleanUp .cancelled
  | .ctxHome => s.homeAbort .cancelled

/-- The reversal after the last forward step: direction, pause, then the reverse steps (R97). -/
def State.reverse (s : State) : State :=
  { (s.driveDir (signFlip s.prof.sign)).emit (.evPause s.cfg.revpause.toNat) with seq := .rev 0 }

/-- The forward step, the action at `Fwd(i)` (R97). -/
def State.fwdStep (i : Nat) (s : State) : State :=
  if s.cancelReq then s.cancelRun
  else
    let s' := (s.pulse (s.prof.delay i)).countStep 1
    if i + 1 < s'.prof.total then { s' with seq := .fwd (i + 1) }
    else if 0 < s'.prof.ovs.toNat then s'.reverse
    else s'.finish

/-- The reverse step, the action at `Rev(j)` (R98). -/
def State.revStep (j : Nat) (s : State) : State :=
  if s.cancelReq then s.cancelRun
  else
    let s' := (s.pulse (s.prof.dm.toNat : Rat)).countStep (-1)
    if j + 1 < s'.prof.ovs.toNat then { s' with seq := .rev (j + 1) } else s'.finish

/-- Lines 8 to 10 of R91: the request is latched and the run starts. -/
def State.acceptMove (target d0 dm ovs : Word) (delta : Int) (s : State) : State :=
  { s with req := ⟨target, d0, dm, ovs⟩, op := .opMove, isMoving := true }.startProfile (signOfInt delta)
    delta.natAbs ovs d0 dm .ctxMove

/-- Lines 2 to 10 of R91. -/
def State.startMove (target d0 dm ovs : Word) (s : State) : State :=
  if delaysValid d0 dm then
    let delta : Int := target.toInt - s.position.toInt
    if delta = 0 then s.respond Opcode.move.byte .ok []
    else if fitsS32 (target.toInt + signToInt (signOfInt delta) * ovs.toNat) then
      s.acceptMove target d0 dm ovs delta
    else s.refuse Opcode.move.byte .configurationError
  else s.refuse Opcode.move.byte .configurationError

/-- `MOVE target, initialDelay, minDelay, overshoot` (R91). -/
def execMove (target d0 dm ovs : Word) (s : State) : Result :=
  .next (s.whenIdle Opcode.move.byte (State.whenInitialized Opcode.move.byte (State.startMove target d0 dm ovs)))

end Sys2Proof.Machine
end

