-- ==== Sys2Proof/Machine/System.lean ====
section
/-! DEFINITION. The system commands INIT, GETPOS, ISMOV, CANCEL, SETCFG and GETCFG (`43_host_commands.md`). -/

namespace Sys2Proof.Machine

/-- The effect of INIT at `seq = Idle` (R162). -/
def State.initBlock (s : State) : State :=
  let s' := { s with initialized := true, lines := { s.lines with stepLine := false, csOn := false } }
  (s'.driveEnable true).respond Opcode.init.byte .ok []

/-- The effect of SETCFG at `seq = Idle` (R167). -/
def State.setCfg (x : Byte) (v : Word) (s : State) : State :=
  match (cfgRegOf x).bind fun r => s.cfg.write r v with
  | some c => { s with cfg := c }.respond Opcode.setcfg.byte .ok []
  | none => s.refuse Opcode.setcfg.byte .configurationError

/-- `INIT` (R162). -/
def execInit (s : State) : Result := .next (s.whenIdle Opcode.init.byte State.initBlock)

/-- `GETPOS` (R163). -/
def execGetpos (s : State) : Result := .next (s.respond Opcode.getpos.byte .ok (bytesBe32 s.position))

/-- `ISMOV` (R164). -/
def execIsmov (s : State) : Result := .next (s.respond Opcode.ismov.byte .ok [s.movingByte])

/-- `CANCEL` (R166). -/
def execCancel (s : State) : Result := .next (s.requestCancel.respond Opcode.cancel.byte .ok [])

/-- `SETCFG index, value` (R167). -/
def execSetcfg (x : Byte) (v : Word) (s : State) : Result :=
  .next (s.whenIdle Opcode.setcfg.byte (State.setCfg x v))

/-- `GETCFG index` (R168). -/
def execGetcfg (x : Byte) (s : State) : Result :=
  match cfgRegOf x with
  | some r => .next (s.respond Opcode.getcfg.byte .ok (bytesBe32 (s.readCfg r)))
  | none => .next (s.refuse Opcode.getcfg.byte .configurationError)

end Sys2Proof.Machine
end

