-- ==== Sys2Proof/Machine/Dispatch.lean ====
section
/-! DEFINITION. `exec`: one arm per instruction, each one call of its meaning. -/

namespace Sys2Proof.Machine

def exec (i : Instr) (s : State) : Host.Outcome State Fault Refusal :=
  match i with
  | .init => Sys2Proof.Machine.execInit s
  | .move t d0 dm ovs => Sys2Proof.Machine.execMove t d0 dm ovs s
  | .home dir pred => Sys2Proof.Machine.execHome dir pred s
  | .wreg a v => Sys2Proof.Machine.execWreg a v s
  | .rreg a => Sys2Proof.Machine.execRreg a s
  | .decode w => Sys2Proof.Machine.execDecode w s
  | .getpos => Sys2Proof.Machine.execGetpos s
  | .ismov => Sys2Proof.Machine.execIsmov s
  | .cancel => Sys2Proof.Machine.execCancel s
  | .setcfg x v => Sys2Proof.Machine.execSetcfg x v s
  | .getcfg x => Sys2Proof.Machine.execGetcfg x s
  | .wframe a v => Sys2Proof.Machine.execWframe a v s
  | .rframe a => Sys2Proof.Machine.execRframe a s

end Sys2Proof.Machine
end

