-- ==== Sys2Proof/Machine/Sequencer.lean ====
section
/-! DEFINITION. What the sequencer does at a boundary whose next action sends no frame (`10_state.md` R20), and how
a table word is put where the next step fetches it. -/

namespace Sys2Proof.Machine

/-- The next action where no frame is sent: a step of a profile run or of the seek, or, at `Idle`, nothing
(`43_host_commands.md` R160: at `Idle` the block does nothing until a packet arrives). -/
def State.stepAction (s : State) : State :=
  match s.seq with
  | .fwd i => s.fwdStep i
  | .rev j => s.revStep j
  | .seekStep => s.seekStep
  | _ => s

/-- Puts a command packet next on the agenda. -/
def State.deliver (p : List Byte) (s : State) : State := { s with agenda := .packet p :: s.agenda }

/-- Puts the sequencer where its next action sends the frame: the boundary of WREG for a write frame, the first
boundary of RREG for a read frame, with the bus latches that the frame is built from. Assumption 12. -/
def State.loadFrame (i : Instr) (s : State) : State :=
  match i with
  | .wframe a v =>
    { s with
      bus := { s.bus with addr := a, wdata := v }, op := .opWreg, seq := .wrT, agenda := .act :: s.agenda }
  | .rframe a =>
    { s with bus := { s.bus with addr := a }, op := .opRreg, seq := .rdT1, agenda := .act :: s.agenda }
  | _ => s

end Sys2Proof.Machine
end

