-- ==== Sys2Proof/Machine/Step.lean ====
section
/-! DEFINITION. One step: what is next on the agenda happens (`43_host_commands.md` R160). -/

namespace Sys2Proof.Machine

/-- A packet delivered at a boundary is taken by one atomic action: a legal one runs its command, an illegal one
is answered `IllegalCommand` (R160, R161). -/
def takePacket (p : List Byte) (s : State) : Result :=
  match decodeCommand p with
  | .instr i => exec i s
  | .illegal _ => .next (s.refuseIllegal p)

/-- The sequencer's next action: the frame it sends, or a step action (`10_state.md` R20). -/
def act (s : State) : Result :=
  match s.pendingFrame with
  | some i => exec i s
  | none => .next s.stepAction

/-- One step of the machine. With nothing on the agenda the sequencer acts. Assumption 5. -/
def step (s : State) : Host.Outcome State Fault Refusal :=
  match s.agenda with
  | [] => act s
  | .act :: rest => act { s with agenda := rest }
  | .packet p :: rest => takePacket p { s with agenda := rest }
  | .chipSet a v :: rest => .next ({ s with agenda := rest }.chipSet a v)
  | .reset :: rest => .next { s with agenda := rest }.applyReset

/-- `s` with the instruction of a table word where `step` fetches its next instruction. Assumption 12. -/
def State.withFetchWord (s : State) (nbits w : Nat) : State :=
  match decodeTableWord nbits w with
  | some (.wframe a v) => s.loadFrame (.wframe a v)
  | some (.rframe a) => s.loadFrame (.rframe a)
  | _ => s.deliver (tableBytes nbits w)

end Sys2Proof.Machine
end

