-- ==== Sys2Proof/Safety.lean ====
section
/-! DEFINITION. What counts as a safe run, in the terms the statements use: the invariant `State.Inv`, which ties
the sequencer, the flags, the latches and the lines together; the part of a state the rules can still read; the
actions an operation has left; and what an event is. -/

namespace Sys2Proof.Machine

/-! ### The invariant -/

/-- Which operation may stand at which boundary (`10_state.md` R20), with the owner of a profile run. -/
def seqFits (op : Op) (ctx : Ctx) : Seq → Prop
  | .idle => op = .opNone
  | .fwd _ => (op = .opMove ∧ ctx = .ctxMove) ∨ (op = .opHome ∧ ctx = .ctxHome)
  | .rev _ => op = .opMove ∧ ctx = .ctxMove
  | .seekStep => op = .opHome
  | .seekT1 => op = .opHome
  | .seekT2 => op = .opHome
  | .wrT => op = .opWreg
  | .rdT1 => op = .opRreg
  | .rdT2 => op = .opRreg

/-- The homing state at each boundary of each operation (`42_homing.md` R140). -/
def hstateFits (op : Op) (seq : Seq) (h : HState) : Prop :=
  if op = .opHome then
    match seq with
    | .fwd _ => h = .hConfirmed
    | _ => h = .hSeeking
  else h = .hIdle ∨ h = .hZeroed

/-- What StartProfile computes and requires (`40_ramp_timer.md` R93). -/
structure Prof.Wf (p : Prof) : Prop where
  stepsPos : 1 ≤ p.n
  stepsLt  : p.n < 2 ^ 32
  total    : p.total = p.n + p.ovs.toNat
  ramp     : p.ramp = p.total / 2
  delays   : delaysValid p.d0 p.dm = true

/-- The position of a run in progress: step index, net steps and DIR agree (`40_ramp_timer.md` R97, R98). -/
def RunInv (p : Prof) (dir : Sign) : Seq → Prop
  | .fwd i => p.Wf ∧ i < p.total ∧ p.net = i ∧ dir = p.sign
  | .rev j => p.Wf ∧ j < p.ovs.toNat ∧ p.net = p.total - j ∧ dir = signFlip p.sign
  | _ => True

/-- A MOVE in progress: the run is that of the latched request, it stays inside 32 bits, and `position` is the
start or, with `PUBINC = 1`, the place reached (`40_ramp_timer.md` R91, R96, R100). -/
structure MoveInv (s : State) : Prop where
  request  : s.prof.d0 = s.req.d0 ∧ s.prof.dm = s.req.dm ∧ s.prof.ovs = s.req.ovs
  target   : s.req.target.toInt = s.prof.start.toInt + signToInt s.prof.sign * s.prof.n
  inside   : fitsS32 (s.prof.start.toInt + signToInt s.prof.sign * s.prof.total) = true
  position : s.position.toInt =
    s.prof.start.toInt + (if s.cfg.pubinc then signToInt s.prof.sign * s.prof.net else 0)

/-- A HOME in progress: its configuration is usable, and while seeking the counters are below their bounds, while
backing off the run is the configured one (`42_homing.md` R142 to R145). -/
def HomeInv (s : State) : Prop :=
  s.cfg.homeReady s.hom.pred = true ∧
    match s.seq with
    | .fwd _ =>
      s.prof.sign = signFlip s.hom.sign ∧ s.prof.n = s.cfg.homeoffset.toNat ∧ s.prof.ovs = 0 ∧
        s.prof.d0 = s.cfg.boidelay ∧ s.prof.dm = s.cfg.bomdelay
    | .seekStep =>
      s.lines.dirSign = s.hom.sign ∧ s.hom.c.toNat < s.cfg.homen.toNat ∧
        s.hom.s.toNat ≤ s.cfg.homebudget.toNat
    | _ =>
      s.lines.dirSign = s.hom.sign ∧ s.hom.c.toNat < s.cfg.homen.toNat ∧
        s.hom.s.toNat ≤ s.cfg.homebudget.toNat ∧ 1 ≤ s.hom.s.toNat

/-- The codes an operation can end with (`60_exceptions.md` R181, `10_state.md` R25). -/
def endCode : Code → Prop
  | .ok => True
  | .busError => True
  | .homingTimeout => True
  | .cancelled => True
  | _ => False

/-- The invariant of the machine at every boundary. -/
structure State.Inv (s : State) : Prop where
  /-- STEP is low between actions (`60_exceptions.md` R190). -/
  stepLow  : s.lines.stepLine = false
  /-- Chip-select is asserted only inside a transaction (`10_state.md` R16). -/
  csLow    : s.lines.csOn = false
  /-- ENABLE is asserted from the first INIT on (`60_exceptions.md` R205). -/
  enabled  : s.lines.enableOn = s.initialized
  /-- An operation runs only after INIT (`10_state.md` R23). -/
  busyInit : s.op ≠ .opNone → s.initialized = true
  /-- The boundary belongs to the operation (`10_state.md` R20). -/
  seqFits  : seqFits s.op s.prof.ctx s.seq
  /-- `isMoving` is 1 exactly during MOVE and HOME (`10_state.md` R22). -/
  moving   : s.isMoving = true ↔ s.op = .opMove ∨ s.op = .opHome
  /-- A cancel is pending only during MOVE and HOME (`10_state.md` R24). -/
  cancel   : s.cancelReq = true → s.op = .opMove ∨ s.op = .opHome
  /-- `hstate` follows HOME (`42_homing.md` R140). -/
  hstate   : hstateFits s.op s.seq s.hstate
  /-- `lastCode` is the code of an operation that ended (`10_state.md` R25). -/
  lastCode : endCode s.lastCode
  /-- The field table holds legal entries (`10_state.md` R26). -/
  fields   : ∀ k : Fin 8, fieldLegal s.cfg.fields[k] = true
  /-- The chip register space is in canonical form (the model's own). -/
  mem      : s.peer.mem.wf = true
  /-- A profile run in progress. -/
  run      : RunInv s.prof s.lines.dirSign s.seq
  /-- A MOVE in progress. -/
  move     : s.op = .opMove → MoveInv s
  /-- A HOME in progress. -/
  home     : s.op = .opHome → HomeInv s

/-! ### What the rules can still read -/

/-- The boundaries of a profile run. -/
def Seq.inRun : Seq → Bool
  | .fwd _ => true
  | .rev _ => true
  | _ => false

/-- The boundaries of the seek. -/
def Seq.inSeek : Seq → Bool
  | .seekStep => true
  | .seekT1 => true
  | .seekT2 => true
  | _ => false

/-- The boundaries of WREG and RREG. -/
def Seq.inBus : Seq → Bool
  | .wrT => true
  | .rdT1 => true
  | .rdT2 => true
  | _ => false

/-- The state with every latch that no rule reads before writing it put at its reset value (`10_state.md` R12 to
R15: "no rule reads the latch outside an operation that has first written it"). -/
def State.liveView (s : State) : State :=
  { s with
    req  := if s.seq.inRun = true ∧ s.prof.ctx = .ctxMove then s.req else .reset
    prof := if s.seq.inRun then s.prof else .reset
    bus  :=
      { BusLatch.reset with
        addr  := if s.seq.inBus then s.bus.addr else 0
        wdata := if s.seq = .wrT then s.bus.wdata else 0 }
    hom  := if s.seq.inSeek then s.hom else .reset }

/-! ### Actions left -/

/-- A bound on the actions an operation in progress can still take (`40_ramp_timer.md` R102, `42_homing.md` R149,
`41_register_client.md` R120). -/
def State.actionsLeft (s : State) : Nat :=
  let seek := 3 * (s.cfg.homebudget.toNat - s.hom.s.toNat) + s.cfg.homeoffset.toNat + 1
  match s.seq with
  | .idle => 0
  | .fwd i => (s.prof.total - i) + s.prof.ovs.toNat
  | .rev j => s.prof.ovs.toNat - j
  | .seekStep => seek
  | .seekT1 => seek + 2
  | .seekT2 => seek + 1
  | .wrT => 1
  | .rdT1 => 2
  | .rdT2 => 1

/-! ### Events -/

/-- A response packet. -/
def Event.isResp : Event → Bool
  | .evResp _ _ _ => true
  | _ => false

/-- A bus transaction, successful or not. -/
def Event.isTxn : Event → Bool
  | .evTxn _ _ => true
  | .evTxnFail _ => true
  | _ => false

/-- A pulse on STEP. -/
def Event.isStep : Event → Bool
  | .evStep _ => true
  | _ => false

/-- The responses in a trace. -/
def respCount (out : List Event) : Nat := out.countP Event.isResp

/-- The responses still owed: one for an operation in progress (`30_encoding.md` R75). -/
def State.owed (s : State) : Nat := if s.op = .opNone then 0 else 1

end Sys2Proof.Machine
end

