-- ==== Sys2Proof/Certificates/Slice0/Obligations.lean ====
section
/-! DEFINITION. The statements for the provers. Each says in its docstring which rule of the spec it formalises.
Where a statement names `act s`, that is the sequencer's next action; `StepRunsWhatIsNext` ties it to `step`. -/

open Sys2Proof Sys2Proof.Machine

/-! ### Reset, stepping, decoding -/

/-- R34, R210: the values the spec gives for reset, the OPEN parameters by name, and STATUS reading 0 (R31). The
latches, which the spec leaves unspecified, are not mentioned: see `UnreadLatchesNeverMatter`. -/
def Obligations.ResetLeavesTheSpecifiedValues : Prop :=
  let s := State.reset
  s.position = 0 ∧ s.isMoving = false ∧ s.initialized = false ∧ s.cancelReq = false ∧ codeByte s.lastCode = 0 ∧
    s.op = .opNone ∧ s.seq = .idle ∧ s.hstate = .hIdle ∧ s.lines = ⟨false, .plus, false, false⟩ ∧ s.out = [] ∧
    s.readCfg .pincfg = 0x00000001 ∧ s.readCfg .revpause = Config.revpauseReset ∧ s.readCfg .seekdelay = 0 ∧
    s.readCfg .homebudget = 0 ∧ s.readCfg .homeoffset = 100 ∧ s.readCfg .homen = 2 ∧ s.readCfg .sgthresh = 0 ∧
    s.readCfg .boidelay = 0 ∧ s.readCfg .bomdelay = 0 ∧
    s.readCfg .statusaddr = Config.descStatusAddr.setWidth 32 ∧ s.cfg.fields = Config.descReset.fields ∧
    s.status = 0x00000000

/-- R210, R211: the reset input, at any boundary, puts the block at its reset values with no response and an empty
trace; the chip's registers and staged reply are whatever they were. That an input still to come stays to come
and that free values already used stay used is the model's choice (assumption 6), and so are the values that the
equation gives the request, profile, bus and homing latches, which R34 and R210 leave unspecified (assumption 1). -/
def Obligations.ResetInputAbandonsTheOperation : Prop :=
  ∀ (s : State) (rest : List Input), s.agenda = .reset :: rest →
    step s = .next { State.reset with peer := s.peer, agenda := rest, draws := s.draws }

/-- R160, R20: what a step runs. A delivered packet that decodes runs its instruction; with nothing on the agenda the
sequencer acts (assumption 5); the sequencer's action at a boundary that sends a frame (R126, R127, R144) runs that
frame. That such an action is the execution of its frame is the model's choice (assumption 12). -/
def Obligations.StepRunsWhatIsNext : Prop :=
  ∀ (s : State) (rest : List Input),
    (∀ p i, s.agenda = .packet p :: rest → decodeCommand p = .instr i → step s = exec i { s with agenda := rest }) ∧
    (s.agenda = .act :: rest → step s = act { s with agenda := rest }) ∧
    (s.agenda = [] → step s = act s) ∧
    (s.seq = .wrT → act s = exec (.wframe s.bus.addr s.bus.wdata) s) ∧
    (s.seq = .rdT1 ∨ s.seq = .rdT2 → act s = exec (.rframe s.bus.addr) s) ∧
    (s.seq = .seekT1 ∨ s.seq = .seekT2 → act s = exec (.rframe s.cfg.statusaddr) s)

/-- The table word of an instruction, placed where the next step fetches it, is what the next step runs: a command
on the given state, a frame at the boundary that sends it (assumption 12; the model's choice). -/
def Obligations.FetchedWordIsRun : Prop :=
  ∀ (s : State) (nbits w : Nat) (i : Instr), decodeTableWord nbits w = some i →
    (i.port = .command → step (s.withFetchWord nbits w) = exec i s) ∧
    (∀ a v, i = .wframe a v →
      step (s.withFetchWord nbits w) =
        exec i { s with bus := { s.bus with addr := a, wdata := v }, op := .opWreg, seq := .wrT }) ∧
    (∀ a, i = .rframe a →
      step (s.withFetchWord nbits w) =
        exec i { s with bus := { s.bus with addr := a }, op := .opRreg, seq := .rdT1 })

/-- R160, R205: at `Idle` with no packet the block does nothing and all state survives. -/
def Obligations.IdleBlockWaits : Prop :=
  ∀ s : State, s.seq = .idle → s.agenda = [] → step s = .next s

/-- R74, R161: an illegal packet, at any boundary, changes no state and emits only `EvResp(cmd, IllegalCommand,
[])`, with `cmd` byte 0 of the packet, `0x00` if it is empty. Legality is `packetLegal`, written from R74 without
the decoder. -/
def Obligations.IllegalPacketOnlyAnswers : Prop :=
  ∀ (s : State) (p : List Byte) (rest : List Input), s.agenda = .packet p :: rest → packetLegal p = false →
    step s = .next { s with
      agenda := rest,
      out := s.out ++ [.evResp (match p with | [] => 0x00 | b :: _ => b) .illegalCommand []] }

/-- R71, R74: the decoder accepts exactly the legal packets, and as the command of their opcode byte. -/
def Obligations.DecoderAcceptsExactlyLegalPackets : Prop :=
  ∀ p : List Byte, ((∃ i, decodeCommand p = .instr i) ↔ packetLegal p = true) ∧
    ∀ i, decodeCommand p = .instr i → i.port = .command ∧ (encode i).head? = p.head?

/-- R60, R64 (which the spec marks as its own inference): the frame decoder accepts exactly the frames the block may
send. -/
def Obligations.FrameDecoderAcceptsExactlySentFrames : Prop :=
  ∀ f : List Byte, (∃ i, decodeFrame f = .instr i) ↔ frameLegal f = true

/-- R61, R62, R72, R73: every instruction, with every operand at every value, is read back from its encoding at its
own port. -/
def Obligations.DecodeOfEncodeIsTheInstruction : Prop :=
  ∀ i : Instr, decodeAt i.port (encode i) = .instr i

/-- R72, R73: an accepted byte string is the encoding of what it decodes to, so no bit is ignored and no two byte
strings mean the same instruction. -/
def Obligations.EncodeOfDecodeIsTheBytes : Prop :=
  ∀ (port : Port) (bytes : List Byte) (i : Instr), decodeAt port bytes = .instr i → encode i = bytes ∧ i.port = port

/-- R61, R62, R72: words written out from the spec's encodings decode to the instructions they stand for, as
packets, as frames, and as the opcode table numbers them; among the table words, every read frame whose address is
not the opcode of `DECODE` (assumption 12). -/
def Obligations.WrittenOutWordsDecode : Prop :=
  decodeCommand [0x02, 0x00, 0x00, 0x00, 0x05, 0x00, 0x00, 0x03, 0xE8, 0x00, 0x00, 0x01, 0x2C, 0x00, 0x00, 0x00, 0x07]
      = .instr (.move 5 1000 300 7) ∧
    decodeCommand [0x03, 0x02] = .instr (.home .minus .predAnalog) ∧
    decodeCommand [0x04, 0x6D, 0x12, 0x34, 0x56, 0x78] = .instr (.wreg 0x6D 0x12345678) ∧
    decodeCommand [0x0A, 0x22, 0x00, 0x00, 0x05, 0x10] = .instr (.setcfg 0x22 0x510) ∧
    decodeFrame [0xED, 0x12, 0x34, 0x56, 0x78] = .instr (.wframe 0x6D 0x12345678) ∧
    decodeFrame [0x6D, 0x00, 0x00, 0x00, 0x00] = .instr (.rframe 0x6D) ∧
    decodeTableWord 16 0x0301 = some (.home .plus .predFlag) ∧
    decodeTableWord 40 0xED12345678 = some (.wframe 0x6D 0x12345678) ∧
    ∀ a : Addr, a.toNat ≠ 0x06 → decodeTableWord 40 (a.toNat * 2 ^ 32) = some (.rframe a)

/-! ### The system commands -/

/-- R162: INIT, one byte `0x01`: at `Idle` all of its effect and nothing else, `Busy` at any other boundary. -/
def Obligations.InitTurnsTheBlockOn : Prop :=
  ∀ s : State,
    encode .init = [0x01] ∧
    (s.seq = .idle → exec .init s = .next { s with
      initialized := true,
      lines := { s.lines with stepLine := false, csOn := false, enableOn := true },
      out := s.out ++ [.evEnable true, .evResp 0x01 .ok []] }) ∧
    (s.seq ≠ .idle → exec .init s = .next { s with out := s.out ++ [.evResp 0x01 .busy []] })

/-- R163: GETPOS, at any boundary, answers the four big-endian bytes of `position` and changes nothing else. -/
def Obligations.GetposAnswersThePosition : Prop :=
  ∀ s : State, ∃ b3 b2 b1 b0 : Byte,
    exec .getpos s = .next { s with out := s.out ++ [.evResp 0x07 .ok [b3, b2, b1, b0]] } ∧
      (b3.toNat * 2 ^ 24 + b2.toNat * 2 ^ 16 + b1.toNat * 2 ^ 8 + b0.toNat : Int) = s.position.toInt % 2 ^ 32

/-- R164, R22: ISMOV, at any boundary, answers the flag and changes nothing else; in states that keep the invariant
the answer is 1 exactly while a MOVE or a HOME is in progress (which R164 marks as its own inference). -/
def Obligations.IsmovTellsMoveOrHome : Prop :=
  ∀ s : State,
    exec .ismov s = .next { s with out := s.out ++ [.evResp 0x08 .ok [if s.isMoving then 0x01 else 0x00]] } ∧
      (s.Inv → (s.isMoving = true ↔ s.op = .opMove ∨ s.op = .opHome))

/-- R166: CANCEL sets `cancelReq` exactly during MOVE and HOME, answers `OK`, and changes nothing else. -/
def Obligations.CancelIsLatchedOnlyDuringMoveOrHome : Prop :=
  ∀ s : State,
    exec .cancel s = .next { s with
      cancelReq := if s.op = .opMove ∨ s.op = .opHome then true else s.cancelReq,
      out := s.out ++ [.evResp 0x09 .ok []] }

/-- R167, R79: SETCFG, six bytes, index by index, with the value it stores, the refusals, and nothing else changed. -/
def Obligations.SetcfgWritesTheNamedRegister : Prop :=
  ∀ (s : State) (x : Byte) (v : Word),
    let done (c : Cfg) : Result := .next { s with cfg := c, out := s.out ++ [.evResp 0x0A .ok []] }
    let refused : Result := .next { s with out := s.out ++ [.evResp 0x0A .configurationError []] }
    ((encode (.setcfg x v)).length = 6 ∧ (encode (.setcfg x v)).head? = some 0x0A) ∧
    (s.seq ≠ .idle → exec (.setcfg x v) s = .next { s with out := s.out ++ [.evResp 0x0A .busy []] }) ∧
    (s.seq = .idle →
      (x.toNat = 0x00 → exec (.setcfg x v) s = done { s.cfg with pincfg := BitVec.ofNat 3 (v.toNat % 8) }) ∧
      (x.toNat = 0x01 → exec (.setcfg x v) s = done { s.cfg with revpause := v }) ∧
      (x.toNat = 0x10 → exec (.setcfg x v) s = done { s.cfg with seekdelay := v }) ∧
      (x.toNat = 0x11 → exec (.setcfg x v) s = done { s.cfg with homebudget := v }) ∧
      (x.toNat = 0x12 → exec (.setcfg x v) s = done { s.cfg with homeoffset := v }) ∧
      (x.toNat = 0x13 → exec (.setcfg x v) s = done { s.cfg with homen := v }) ∧
      (x.toNat = 0x14 → exec (.setcfg x v) s = done { s.cfg with sgthresh := v }) ∧
      (x.toNat = 0x15 → exec (.setcfg x v) s = done { s.cfg with boidelay := v }) ∧
      (x.toNat = 0x16 → exec (.setcfg x v) s = done { s.cfg with bomdelay := v }) ∧
      (x.toNat = 0x17 → v.toNat ≤ 0x7F →
        exec (.setcfg x v) s = done { s.cfg with statusaddr := BitVec.ofNat 7 v.toNat }) ∧
      (x.toNat = 0x17 → 0x7F < v.toNat → exec (.setcfg x v) s = refused) ∧
      (∀ k : Fin 8, x.toNat = 0x20 + k.val →
        let lsb := v.toNat % 2 ^ 5
        let width := v.toNat / 2 ^ 8 % 2 ^ 6
        (width ≤ 32 ∧ lsb + width ≤ 32 → exec (.setcfg x v) s =
          done { s.cfg with fields := s.cfg.fields.set k.val ⟨BitVec.ofNat 5 lsb, BitVec.ofNat 6 width⟩ k.isLt }) ∧
        (¬(width ≤ 32 ∧ lsb + width ≤ 32) → exec (.setcfg x v) s = refused)) ∧
      (2 ≤ x.toNat ∧ x.toNat < 0x10 ∨ 0x18 ≤ x.toNat ∧ x.toNat < 0x20 ∨ 0x28 ≤ x.toNat →
        exec (.setcfg x v) s = refused))

/-- R168, R29 to R31: GETCFG, two bytes, index by index, the value it answers (STATUS from the live state), the
refusals, and nothing else changed. -/
def Obligations.GetcfgAnswersTheNamedRegister : Prop :=
  ∀ (s : State) (x : Byte),
    let gives (n : Nat) : Prop := ∃ b3 b2 b1 b0 : Byte,
      exec (.getcfg x) s = .next { s with out := s.out ++ [.evResp 0x0B .ok [b3, b2, b1, b0]] } ∧
        b3.toNat * 2 ^ 24 + b2.toNat * 2 ^ 16 + b1.toNat * 2 ^ 8 + b0.toNat = n
    encode (.getcfg x) = [0x0B, x] ∧
    (x.toNat = 0x00 → gives s.cfg.pincfg.toNat) ∧
    (x.toNat = 0x01 → gives s.cfg.revpause.toNat) ∧
    (x.toNat = 0x10 → gives s.cfg.seekdelay.toNat) ∧
    (x.toNat = 0x11 → gives s.cfg.homebudget.toNat) ∧
    (x.toNat = 0x12 → gives s.cfg.homeoffset.toNat) ∧
    (x.toNat = 0x13 → gives s.cfg.homen.toNat) ∧
    (x.toNat = 0x14 → gives s.cfg.sgthresh.toNat) ∧
    (x.toNat = 0x15 → gives s.cfg.boidelay.toNat) ∧
    (x.toNat = 0x16 → gives s.cfg.bomdelay.toNat) ∧
    (x.toNat = 0x17 → gives s.cfg.statusaddr.toNat) ∧
    (∀ k : Fin 8, x.toNat = 0x20 + k.val →
      gives (s.cfg.fields[k].lsb.toNat + s.cfg.fields[k].width.toNat * 2 ^ 8)) ∧
    (x.toNat = 0x7F → gives (s.isMoving.toNat + 2 * s.initialized.toNat + 4 * s.cancelReq.toNat +
      16 * (match s.hstate with | .hIdle => 0 | .hSeeking => 1 | .hConfirmed => 2 | .hZeroed => 3) +
      256 * (match s.op with | .opNone => 0 | .opMove => 1 | .opHome => 2 | .opWreg => 3 | .opRreg => 4) +
      65536 * (match s.lastCode with
        | .ok => 0 | .configurationError => 1 | .busError => 2 | .homingTimeout => 3 | .persistenceError => 4
        | .cancelled => 5 | .busy => 6 | .illegalCommand => 7 | .notInitialized => 8))) ∧
    (2 ≤ x.toNat ∧ x.toNat < 0x10 ∨ 0x18 ≤ x.toNat ∧ x.toNat < 0x20 ∨ 0x28 ≤ x.toNat ∧ x.toNat ≠ 0x7F →
      exec (.getcfg x) s = .next { s with out := s.out ++ [.evResp 0x0B .configurationError []] })

/-- R28, R29, R79: a value SETCFG accepted is read back by GETCFG with the reserved bits 0, at every index. -/
def Obligations.SetThenGetReadsBack : Prop :=
  ∀ (s t : State) (x : Byte) (v : Word), s.seq = .idle → exec (.setcfg x v) s = .next t →
    t.out = s.out ++ [.evResp 0x0A .ok []] →
    ∃ b3 b2 b1 b0 : Byte,
      exec (.getcfg x) t = .next { t with out := t.out ++ [.evResp 0x0B .ok [b3, b2, b1, b0]] } ∧
        b3.toNat * 2 ^ 24 + b2.toNat * 2 ^ 16 + b1.toNat * 2 ^ 8 + b0.toNat =
          if x.toNat = 0x00 then v.toNat % 8
          else if 0x20 ≤ x.toNat then v.toNat % 2 ^ 5 + v.toNat / 2 ^ 8 % 2 ^ 6 * 2 ^ 8
          else v.toNat

/-- R160: at any boundary but `Idle`, INIT, MOVE, HOME, WREG, RREG and SETCFG are answered `Busy` with no other
effect, whatever their operands. -/
def Obligations.BusyRefusalsHaveNoEffect : Prop :=
  ∀ s : State, s.seq ≠ .idle →
    let busy (cmd : Byte) : Result := .next { s with out := s.out ++ [.evResp cmd .busy []] }
    exec .init s = busy 0x01 ∧
    (∀ t d0 dm ovs, exec (.move t d0 dm ovs) s = busy 0x02) ∧
    (∀ dir pred, exec (.home dir pred) s = busy 0x03) ∧
    (∀ a v, exec (.wreg a v) s = busy 0x04) ∧
    (∀ a, exec (.rreg a) s = busy 0x05) ∧
    (∀ x v, exec (.setcfg x v) s = busy 0x0A)

/-- R23: `initialized` is 0 after reset, set by INIT, by nothing but an INIT packet at `Idle`, and cleared by nothing
but reset; while it is 0, MOVE, HOME, WREG and RREG at `Idle` are answered `NotInitialized` and do nothing. -/
def Obligations.NothingRunsBeforeInit : Prop :=
  State.reset.initialized = false ∧
  (∀ s t : State, s.seq = .idle → exec .init s = .next t → t.initialized = true) ∧
  (∀ s t : State, step s = .next t → s.agenda.head? ≠ some .reset →
    (s.initialized = true → t.initialized = true) ∧
    (s.initialized = false → t.initialized = true → s.agenda.head? = some (.packet [0x01]) ∧ s.seq = .idle)) ∧
  ∀ s : State, s.seq = .idle → s.initialized = false →
    let refused (cmd : Byte) : Result := .next { s with out := s.out ++ [.evResp cmd .notInitialized []] }
    (∀ t d0 dm ovs, exec (.move t d0 dm ovs) s = refused 0x02) ∧
    (∀ dir pred, exec (.home dir pred) s = refused 0x03) ∧
    (∀ a v, exec (.wreg a v) s = refused 0x04) ∧
    (∀ a, exec (.rreg a) s = refused 0x05)

/-! ### The ramp timer -/

/-- R91, R93: MOVE, 17 bytes, all of its action: the refusals, the zero displacement, and the start with every
latch, in both directions, and nothing else changed. -/
def Obligations.MoveIsCheckedThenStarted : Prop :=
  ∀ (s : State) (t d0 dm ovs : Word),
    let answer (code : Code) : Result := .next { s with out := s.out ++ [.evResp 0x02 code []] }
    let started (sg : Sign) (n : Nat) : Result := .next { s with
      req := ⟨t, d0, dm, ovs⟩,
      prof := { sign := sg, n := n, total := n + ovs.toNat, ramp := (n + ovs.toNat) / 2, d0 := d0, dm := dm,
                ovs := ovs, start := s.position, net := 0, ctx := .ctxMove },
      op := .opMove, isMoving := true, seq := .fwd 0,
      lines := { s.lines with dirSign := sg }, out := s.out ++ [.evDir sg] }
    let pos := s.position.toInt
    ((encode (.move t d0 dm ovs)).length = 17 ∧ (encode (.move t d0 dm ovs)).head? = some 0x02) ∧
    (s.seq ≠ .idle → exec (.move t d0 dm ovs) s = answer .busy) ∧
    (s.seq = .idle → s.initialized = false → exec (.move t d0 dm ovs) s = answer .notInitialized) ∧
    (s.seq = .idle → s.initialized = true →
      (d0.toNat = 0 ∨ dm.toNat = 0 ∨ d0.toNat < dm.toNat →
        exec (.move t d0 dm ovs) s = answer .configurationError) ∧
      (1 ≤ dm.toNat → dm.toNat ≤ d0.toNat →
        (t.toInt = pos → exec (.move t d0 dm ovs) s = answer .ok) ∧
        (pos < t.toInt → 2 ^ 31 - 1 < t.toInt + ovs.toNat →
          exec (.move t d0 dm ovs) s = answer .configurationError) ∧
        (pos < t.toInt → t.toInt + ovs.toNat ≤ 2 ^ 31 - 1 →
          exec (.move t d0 dm ovs) s = started .plus (t.toInt - pos).toNat) ∧
        (t.toInt < pos → t.toInt - ovs.toNat < -2 ^ 31 →
          exec (.move t d0 dm ovs) s = answer .configurationError) ∧
        (t.toInt < pos → -2 ^ 31 ≤ t.toInt - ovs.toNat →
          exec (.move t d0 dm ovs) s = started .minus (pos - t.toInt).toNat)))

/-- R94: `Delay(i)` in the source's three phases and in the closed form over the ramp length. -/
def Obligations.DelayFollowsTheThreePhases : Prop :=
  ∀ (p : Prof) (i : Nat), p.Wf → i < p.total →
    let d0 : Rat := p.d0.toNat
    let dm : Rat := p.dm.toNat
    let r : Rat := p.ramp
    (p.ramp = 0 → p.delay i = dm) ∧
    (i < p.ramp → p.delay i = max (d0 - (d0 - dm) / r * (i + 1)) dm ∧
      p.delay i = (d0 * r - (d0 - dm) * (i + 1)) / r) ∧
    (0 < p.ramp → p.total - p.ramp ≤ i →
      p.delay i = dm + (d0 - dm) / r * ((i - (p.total - r)) + 1) ∧
      p.delay i = (dm * r + (d0 - dm) * (i - (p.total - r) + 1)) / r) ∧
    (p.ramp ≤ i → i < p.total - p.ramp → p.delay i = dm)

/-- R95, an inference the spec marks as its own: the phases do not overlap and the plateau has `T - 2R` (0 or 1)
steps, at `dm`; the end values; the bounds; the delay falls strictly through the acceleration and rises strictly
through the deceleration when `d0 > dm`, and is `dm` throughout when `d0 = dm`; the clamp never changes a value;
every denominator divides `R`. -/
def Obligations.DelayProfileIsATrapezoid : Prop :=
  ∀ p : Prof, p.Wf →
    let d0 : Rat := p.d0.toNat
    let dm : Rat := p.dm.toNat
    let step : Rat := (d0 - dm) / p.ramp
    p.ramp ≤ p.total - p.ramp ∧ p.total - p.ramp - p.ramp = p.total % 2 ∧
    (0 < p.ramp → p.delay (p.ramp - 1) = dm ∧ p.delay (p.total - 1) = d0 ∧ p.delay 0 = d0 - step ∧
      p.delay (p.total - p.ramp) = dm + step) ∧
    (∀ i, p.ramp ≤ i → i < p.total - p.ramp → p.delay i = dm) ∧
    (∀ i, i < p.ramp → dm ≤ d0 - step * (i + 1)) ∧
    (∀ i, i < p.total → dm ≤ p.delay i ∧ p.delay i ≤ d0) ∧
    (dm < d0 → (∀ i, i + 1 < p.ramp → p.delay (i + 1) < p.delay i) ∧
      (∀ i, p.total - p.ramp ≤ i → i + 1 < p.total → p.delay i < p.delay (i + 1))) ∧
    (d0 = dm → ∀ i, i < p.total → p.delay i = dm) ∧
    (0 < p.ramp → ∀ i, i < p.total → (p.delay i).den ∣ p.ramp)

/-- `95_test_vectors.md` V1, an inference the spec marks as its own: the delays of a forward phase sum to `ramp*(d0
+ dm) + (total - 2*ramp)*dm`. -/
def Obligations.DelaysOfARunSumUp : Prop :=
  ∀ p : Prof, p.Wf → 0 < p.ramp →
    ((List.range p.total).map p.delay).sum =
      (p.ramp : Rat) * (p.d0.toNat + p.dm.toNat) + ((p.total - 2 * p.ramp : Nat) : Rat) * p.dm.toNat

/-- R103: the phase of a forward step, and that of a reverse step. -/
def Obligations.PhaseOfAStep : Prop :=
  ∀ (s : State) (i : Nat),
    (s.seq = .fwd i → 0 < s.prof.ramp → i < s.prof.ramp → s.phase = some .accel) ∧
    (s.seq = .fwd i → 0 < s.prof.ramp → s.prof.ramp ≤ i → s.prof.total - s.prof.ramp ≤ i → s.phase = some .decel) ∧
    (s.seq = .fwd i → s.prof.ramp = 0 ∨ (s.prof.ramp ≤ i ∧ i < s.prof.total - s.prof.ramp) →
      s.phase = some .plateau) ∧
    (s.seq = .rev i → s.phase = some .reverse)

/-- R97, R99, R147: the forward step. With a cancel pending, `Cancel()` (R101) and no pulse; else one pulse with its
delay, one net step, `position` published only with `PUBINC = 1` in a MOVE, and then the next step, the reversal,
or the end of the run, which for a MOVE sets `position` to the target and for a HOME to 0. -/
def Obligations.ForwardStepPulsesOnce : Prop :=
  ∀ (s : State) (i : Nat), s.seq = .fwd i →
    let cancelled (t : State) (cmd : Byte) : Result := .next { t with
      isMoving := false, out := s.out ++ [.evResp cmd .cancelled []], seq := .idle, op := .opNone,
      lastCode := .cancelled, cancelReq := false }
    let reached : Int := match s.prof.sign with
      | .plus => s.prof.start.toInt + s.prof.net
      | .minus => s.prof.start.toInt - s.prof.net
    let counted : Prof := { s.prof with net := s.prof.net + 1 }
    let shown : Word :=
      if s.cfg.pincfg.getLsbD 2 = true ∧ s.prof.ctx = .ctxMove then
        (match s.prof.sign with | .plus => s.position + 1 | .minus => s.position - 1)
      else s.position
    let back : Sign := match s.prof.sign with | .plus => .minus | .minus => .plus
    let pulse : Event := .evStep (s.prof.delay i)
    (s.cancelReq = true → s.prof.ctx = .ctxMove → s.op = .opMove →
      act s = cancelled { s with position := BitVec.ofInt 32 reached } 0x02) ∧
    (s.cancelReq = true → s.prof.ctx = .ctxHome → s.op = .opHome →
      act s = cancelled { s with hstate := .hIdle } 0x03) ∧
    (s.cancelReq = false → i + 1 < s.prof.total → act s = .next { s with
      prof := counted, position := shown, lines := { s.lines with stepLine := false },
      out := s.out ++ [pulse], seq := .fwd (i + 1) }) ∧
    (s.cancelReq = false → s.prof.total ≤ i + 1 → 0 < s.prof.ovs.toNat → act s = .next { s with
      prof := counted, position := shown, lines := { s.lines with stepLine := false, dirSign := back },
      out := s.out ++ [pulse, .evDir back, .evPause s.cfg.revpause.toNat], seq := .rev 0 }) ∧
    (s.cancelReq = false → s.prof.total ≤ i + 1 → s.prof.ovs.toNat = 0 → s.prof.ctx = .ctxMove → s.op = .opMove →
      act s = .next { s with
        prof := counted, position := s.req.target, lines := { s.lines with stepLine := false }, isMoving := false,
        out := s.out ++ [pulse, .evResp 0x02 .ok []], seq := .idle, op := .opNone, lastCode := .ok }) ∧
    (s.cancelReq = false → s.prof.total ≤ i + 1 → s.prof.ovs.toNat = 0 → s.prof.ctx = .ctxHome → s.op = .opHome →
      act s = .next { s with
        prof := counted, position := 0, lines := { s.lines with stepLine := false }, isMoving := false,
        hstate := .hZeroed, out := s.out ++ [pulse, .evResp 0x03 .ok []], seq := .idle, op := .opNone,
        lastCode := .ok })

/-- R98, R99: the reverse step, which only a MOVE has. With a cancel pending, `Cancel()` (R101) and no pulse; else one
pulse at `minDelay`, one net step back, and then the next reverse step or the end of the MOVE. -/
def Obligations.ReverseStepPulsesOnce : Prop :=
  ∀ (s : State) (j : Nat), s.seq = .rev j → s.prof.ctx = .ctxMove → s.op = .opMove →
    let counted : Prof := { s.prof with net := s.prof.net - 1 }
    let shown : Word :=
      if s.cfg.pincfg.getLsbD 2 = true then
        (match s.prof.sign with | .plus => s.position - 1 | .minus => s.position + 1)
      else s.position
    (s.cancelReq = true → act s = .next { s with
      position := BitVec.ofInt 32 (match s.prof.sign with
        | .plus => s.prof.start.toInt + s.prof.net
        | .minus => s.prof.start.toInt - s.prof.net),
      isMoving := false, out := s.out ++ [.evResp 0x02 .cancelled []], seq := .idle, op := .opNone,
      lastCode := .cancelled, cancelReq := false }) ∧
    (s.cancelReq = false → j + 1 < s.prof.ovs.toNat → act s = .next { s with
      prof := counted, position := shown, lines := { s.lines with stepLine := false },
      out := s.out ++ [.evStep s.prof.dm.toNat], seq := .rev (j + 1) }) ∧
    (s.cancelReq = false → s.prof.ovs.toNat ≤ j + 1 → act s = .next { s with
      prof := counted, position := s.req.target, lines := { s.lines with stepLine := false }, isMoving := false,
      out := s.out ++ [.evStep s.prof.dm.toNat, .evResp 0x02 .ok []], seq := .idle, op := .opNone,
      lastCode := .ok })

/-- R101, R148, R190: a cancel pending at a step boundary of a run ends the operation before the pulse: a MOVE with
`position` at the place reached, a HOME with `position` unchanged and `hstate = HIdle`; lines unchanged. -/
def Obligations.CancelEndsTheRunBeforeThePulse : Prop :=
  ∀ s : State, (∃ i, s.seq = .fwd i ∨ s.seq = .rev i) → s.cancelReq = true →
    (s.prof.ctx = .ctxMove → s.op = .opMove → act s = .next { s with
      position := BitVec.ofInt 32 (match s.prof.sign with
        | .plus => s.prof.start.toInt + s.prof.net
        | .minus => s.prof.start.toInt - s.prof.net),
      isMoving := false, out := s.out ++ [.evResp 0x02 .cancelled []], seq := .idle, op := .opNone,
      lastCode := .cancelled, cancelReq := false }) ∧
    (s.prof.ctx = .ctxHome → s.op = .opHome → act s = .next { s with
      hstate := .hIdle, isMoving := false, out := s.out ++ [.evResp 0x03 .cancelled []], seq := .idle,
      op := .opNone, lastCode := .cancelled, cancelReq := false })

/-- R100, R163: during a MOVE GETPOS answers the start position with `PUBINC = 0`, and the true count of pulses
issued, which never leaves 32 bits, with `PUBINC = 1`. -/
def Obligations.PositionShownDuringAMove : Prop :=
  ∀ s : State, s.Inv → s.op = .opMove → ∃ b3 b2 b1 b0 : Byte,
    exec .getpos s = .next { s with out := s.out ++ [.evResp 0x07 .ok [b3, b2, b1, b0]] } ∧
      (b3.toNat * 2 ^ 24 + b2.toNat * 2 ^ 16 + b1.toNat * 2 ^ 8 + b0.toNat : Int) =
        (if s.cfg.pincfg.getLsbD 2 then
          (match s.prof.sign with
            | .plus => s.prof.start.toInt + s.prof.net
            | .minus => s.prof.start.toInt - s.prof.net)
        else s.prof.start.toInt) % 2 ^ 32

/-- R102 (an inference the spec marks as its own) and R99: a MOVE that is accepted and not disturbed runs to its end
in `n + 2*overshoot` actions: exactly these events, `position` at the target, `isMoving` 0, the block idle, and the
configuration, the chip and the homing state as before. -/
def Obligations.MoveRunsToTheTarget : Prop :=
  ∀ (s : State) (target d0 dm ovs : Word), s.Inv → s.seq = .idle → s.initialized = true → s.agenda = [] →
    1 ≤ dm.toNat → dm.toNat ≤ d0.toNat → target ≠ s.position →
    let sg : Sign := if s.position.toInt < target.toInt then .plus else .minus
    let back : Sign := if s.position.toInt < target.toInt then .minus else .plus
    let n : Nat := (target.toInt - s.position.toInt).natAbs
    (-2 ^ 31 : Int) ≤ target.toInt - (if sg = .minus then ovs.toNat else 0) →
    target.toInt + (if sg = .plus then ovs.toNat else 0) ≤ 2 ^ 31 - 1 →
    ∃ t u : State, exec (.move target d0 dm ovs) s = .next t ∧
      Host.Core.run Sys2Proof.core (n + 2 * ovs.toNat) t = .next u ∧
      u.out = s.out ++ [.evDir sg] ++ (List.range (n + ovs.toNat)).map (fun i => .evStep (t.prof.delay i)) ++
        (if ovs.toNat = 0 then []
          else [.evDir back, .evPause s.cfg.revpause.toNat] ++ List.replicate ovs.toNat (.evStep dm.toNat)) ++
        [.evResp 0x02 .ok []] ∧
      u.position = target ∧ u.isMoving = false ∧ u.seq = .idle ∧ u.op = .opNone ∧ u.lastCode = .ok ∧
      u.cancelReq = false ∧ u.hstate = s.hstate ∧ u.cfg = s.cfg ∧ u.peer = s.peer ∧ u.initialized = true

/-! ### The register client -/

/-- R126, R127, action 1: WREG and RREG, at `Idle` and initialised, latch their operands and start, and change
nothing else. -/
def Obligations.BusCommandsLatchAndStart : Prop :=
  ∀ (s : State) (a : Addr) (v : Word), s.seq = .idle → s.initialized = true →
    exec (.wreg a v) s = .next { s with bus := { s.bus with addr := a, wdata := v }, op := .opWreg, seq := .wrT } ∧
    exec (.rreg a) s = .next { s with bus := { s.bus with addr := a }, op := .opRreg, seq := .rdT1 }

/-- R120: a transaction changes only the receive latch on success, the trace by its one event, the peer and the
count of free values used; chip-select is deasserted afterwards, on failure too. -/
def Obligations.TransactionIsAtomic : Prop :=
  ∀ (s t : State) (tx : Bytes5) (o : TxnOutcome), s.transact tx = (o, t) →
    (∀ rx, o = .ok rx → t = { s with
      lines := { s.lines with csOn := false }, bus := { s.bus with rx := rx }, out := s.out ++ [.evTxn tx rx],
      peer := t.peer, draws := t.draws }) ∧
    (o = .fail → t = { s with
      lines := { s.lines with csOn := false }, out := s.out ++ [.evTxnFail tx], peer := t.peer, draws := t.draws })

/-- R61, R126 action 2, R190: the write frame's bytes are `80 + a` and the big-endian value; sent by a WREG, its
transaction ends the operation `OK`, or `BusError` on a failure; sent at a boundary where no WREG waits for it, it
is the transaction alone (assumption 12; the model's choice, as is that a frame other than the latched one serves
the waiting WREG too). -/
def Obligations.WriteFrameEndsTheWreg : Prop :=
  ∀ (s t : State) (a : Addr) (v : Word) (o : TxnOutcome),
    s.transact ⟨BitVec.ofNat 8 (128 + a.toNat), BitVec.ofNat 8 (v.toNat / 2 ^ 24), BitVec.ofNat 8 (v.toNat / 2 ^ 16),
      BitVec.ofNat 8 (v.toNat / 2 ^ 8), BitVec.ofNat 8 v.toNat⟩ = (o, t) →
    (s.seq = .wrT → s.op = .opWreg → ∀ rx, o = .ok rx → exec (.wframe a v) s = .next { t with
      out := t.out ++ [.evResp 0x04 .ok []], seq := .idle, op := .opNone, lastCode := .ok, cancelReq := false }) ∧
    (s.seq = .wrT → s.op = .opWreg → o = .fail → exec (.wframe a v) s = .next { t with
      out := t.out ++ [.evResp 0x04 .busError []], seq := .idle, op := .opNone, lastCode := .busError,
      cancelReq := false }) ∧
    (s.seq ≠ .wrT → exec (.wframe a v) s = .next t)

/-- R62, R127 actions 2 and 3, R63, R190: the read frame's bytes are `a 00 00 00 00`; in the first transaction of a
RREG all received bytes are dropped, in the second bytes 1 to 4 are the result and byte 0 is dropped; a failure of
either ends the RREG `BusError`, `bus.result` unchanged. Sent at a boundary where no read waits for it, it is the
transaction alone (assumption 12; the model's choice, as is that a frame with another address than the latched one
serves the waiting RREG too). -/
def Obligations.ReadFrameServesTheRreg : Prop :=
  ∀ (s t : State) (a : Addr) (o : TxnOutcome), s.transact ⟨BitVec.ofNat 8 a.toNat, 0, 0, 0, 0⟩ = (o, t) →
    (∀ rx, s.op = .opRreg → s.seq = .rdT1 → o = .ok rx → exec (.rframe a) s = .next { t with seq := .rdT2 }) ∧
    (∀ rx, s.op = .opRreg → s.seq = .rdT2 → o = .ok rx →
      let w : Nat := rx.b1.toNat * 2 ^ 24 + rx.b2.toNat * 2 ^ 16 + rx.b3.toNat * 2 ^ 8 + rx.b4.toNat
      exec (.rframe a) s = .next { t with
      bus := { t.bus with result := BitVec.ofNat 32 w },
      out := t.out ++ [.evResp 0x05 .ok [rx.b1, rx.b2, rx.b3, rx.b4]],
      seq := .idle, op := .opNone, lastCode := .ok, cancelReq := false }) ∧
    (s.op = .opRreg → s.seq = .rdT1 ∨ s.seq = .rdT2 → o = .fail → exec (.rframe a) s = .next { t with
      out := t.out ++ [.evResp 0x05 .busError []], seq := .idle, op := .opNone, lastCode := .busError,
      cancelReq := false }) ∧
    (s.seq ≠ .rdT1 → s.seq ≠ .rdT2 → s.seq ≠ .seekT1 → s.seq ≠ .seekT2 → exec (.rframe a) s = .next t)

/-- R128, R129: DECODE, five bytes, in any state, answers the eight fields in index order, each the slice its table
entry names, as 32 bytes, and changes nothing else. -/
def Obligations.DecodeAnswersTheEightFields : Prop :=
  ∀ (s : State) (w : Word), (encode (.decode w)).length = 5 ∧ (encode (.decode w)).head? = some 0x06 ∧
    ∃ bytes : List Byte,
      exec (.decode w) s = .next { s with out := s.out ++ [.evResp 0x06 .ok bytes] } ∧ bytes.length = 32 ∧
      ∀ k : Fin 8, ∃ b3 b2 b1 b0 : Byte, (bytes.drop (4 * k.val)).take 4 = [b3, b2, b1, b0] ∧
        b3.toNat * 2 ^ 24 + b2.toNat * 2 ^ 16 + b1.toNat * 2 ^ 8 + b0.toNat =
          if s.cfg.fields[k].width.toNat = 0 then 0
          else w.toNat / 2 ^ s.cfg.fields[k].lsb.toNat % 2 ^ s.cfg.fields[k].width.toNat

/-- R48, R47: the reference peer answers the staged reply behind a free byte 0; a write stores the payload in the
addressed chip register and in no other cell, and leaves a free staged reply; a read stages the addressed
register's value and stores nothing. That register `a` is the cells `4*a` to `4*a + 3`, most significant byte
first, is the model's choice (assumption 2), and so is the form of the free values (assumption 4). -/
def Obligations.ReferencePeerIsOneBehind : Prop :=
  ∀ (s t : State) (a : Addr) (v : Word) (o : TxnOutcome), s.peer.mem.wf = true → s.peer.script = [] →
    s.peer.mode = .reference →
    (s.transact (writeFrame a v) = (o, t) →
      (∃ rx, o = .ok rx ∧ rx.payload = s.peer.staged ∧ rx.b0 = Config.freeByte s.draws) ∧
      t.peer.staged = Config.freeWord s.draws ∧
      (∀ k, k < 4 → (t.peer.mem.readByte (4 * a.toNat + k)).toNat = v.toNat / 2 ^ (8 * (3 - k)) % 2 ^ 8) ∧
      (∀ c, c < 4 * a.toNat ∨ 4 * a.toNat + 4 ≤ c → t.peer.mem.readByte c = s.peer.mem.readByte c)) ∧
    (s.transact (readFrame a) = (o, t) →
      (∃ rx, o = .ok rx ∧ rx.payload = s.peer.staged ∧ rx.b0 = Config.freeByte s.draws) ∧
      t.peer.staged = s.peer.mem.readReg a ∧ t.peer.mem = s.peer.mem)

/-- R51, its last sentence an inference the spec marks as its own: with the reference peer, `WREG a, v` followed by
`RREG a`, as packets from a boundary at `Idle`, answers `v`, for every address and value; every other chip register
is as before. -/
def Obligations.WrittenRegisterReadsBack : Prop :=
  ∀ (s : State) (a : Addr) (v : Word), s.Inv → s.seq = .idle → s.initialized = true →
    s.peer.mode = .reference → s.peer.script = [] →
    ∃ (u : State) (before : List Event),
      Host.Core.run Sys2Proof.core 5
        { s with agenda := [.packet (encode (.wreg a v)), .act, .packet (encode (.rreg a)), .act, .act] } = .next u ∧
      u.out = before ++ [.evResp 0x05 .ok [BitVec.ofNat 8 (v.toNat / 2 ^ 24), BitVec.ofNat 8 (v.toNat / 2 ^ 16),
        BitVec.ofNat 8 (v.toNat / 2 ^ 8), BitVec.ofNat 8 v.toNat]] ∧
      u.bus.result = v ∧ u.seq = .idle ∧ u.position = s.position ∧ u.isMoving = s.isMoving ∧
      u.peer.mem.readReg a = v ∧ ∀ b, b ≠ a → u.peer.mem.readReg b = s.peer.mem.readReg b

/-- R124, an inference the spec marks as its own: a RREG returns the value the chip register had when the request
transaction was processed; a change of the register between the two transactions is not seen. -/
def Obligations.ReadReturnsTheValueAtTheRequest : Prop :=
  ∀ (s : State) (a : Addr) (changed : Word), s.Inv → s.seq = .idle → s.initialized = true →
    s.peer.mode = .reference → s.peer.script = [] →
    ∃ u : State,
      Host.Core.run Sys2Proof.core 4
        { s with agenda := [.packet (encode (.rreg a)), .act, .chipSet a changed, .act] } = .next u ∧
      u.bus.result = s.peer.mem.readReg a ∧ u.peer.mem.readReg a = changed ∧ u.seq = .idle

/-- R40 in the model's form, which R40 itself does not give (it has no byte access): the chip register space as byte
cells is the model's choice (assumption 2). A byte written to the chip register space is read back, and every other cell reads as
before; the canonical form is kept. -/
def Obligations.ChipMemoryReadsBack : Prop :=
  ∀ (m : Memory) (c : Nat) (b : Byte), m.wf = true → c < 512 →
    (m.writeByte c b).readByte c = b ∧ (∀ d, d ≠ c → (m.writeByte c b).readByte d = m.readByte d) ∧
      (m.writeByte c b).wf = true

/-! ### Homing -/

/-- R142: HOME, all of its action: the refusals (one test for every unusable configuration) and the start. -/
def Obligations.HomeIsCheckedThenStarted : Prop :=
  ∀ (s : State) (dir : Sign) (pred : Pred),
    let answer (code : Code) : Result := .next { s with out := s.out ++ [.evResp 0x03 code []] }
    let unusable : Prop :=
      s.cfg.seekdelay.toNat = 0 ∨ s.cfg.homen.toNat = 0 ∨ s.cfg.boidelay.toNat = 0 ∨ s.cfg.bomdelay.toNat = 0 ∨
        s.cfg.boidelay.toNat < s.cfg.bomdelay.toNat ∨
        (pred = .predFlag ∧ s.cfg.fields[0].width.toNat = 0) ∨
        (pred = .predAnalog ∧ s.cfg.fields[7].width.toNat = 0)
    (s.seq ≠ .idle → exec (.home dir pred) s = answer .busy) ∧
    (s.seq = .idle → s.initialized = false → exec (.home dir pred) s = answer .notInitialized) ∧
    (s.seq = .idle → s.initialized = true → unusable → exec (.home dir pred) s = answer .configurationError) ∧
    (s.seq = .idle → s.initialized = true → ¬unusable → exec (.home dir pred) s = .next { s with
      hom := ⟨dir, pred, 0, 0⟩, op := .opHome, isMoving := true, hstate := .hSeeking, seq := .seekStep,
      lines := { s.lines with dirSign := dir }, out := s.out ++ [.evDir dir] })

/-- R143, R148, R186 item 3: at a seek boundary a cancel comes before an exhausted budget, and that before the one
pulse; `position` is not changed by any of the three. -/
def Obligations.SeekStepChecksThenPulses : Prop :=
  ∀ s : State, s.seq = .seekStep → s.op = .opHome →
    let aborted (code : Code) : Result := .next { s with
      hstate := .hIdle, isMoving := false, out := s.out ++ [.evResp 0x03 code []], seq := .idle, op := .opNone,
      lastCode := code, cancelReq := false }
    (s.cancelReq = true → act s = aborted .cancelled) ∧
    (s.cancelReq = false → s.cfg.homebudget.toNat ≤ s.hom.s.toNat → act s = aborted .homingTimeout) ∧
    (s.cancelReq = false → s.hom.s.toNat < s.cfg.homebudget.toNat → act s = .next { s with
      lines := { s.lines with stepLine := false }, hom := { s.hom with s := s.hom.s + 1 },
      out := s.out ++ [.evStep s.cfg.seekdelay.toNat], seq := .seekT1 })

/-- R144, R145, R146, R147: the status read of HOME. The predicate is field 0 non-zero, or field 7 strictly below
the threshold; a read that confirms counts, one that does not resets the count; at `HOMEN` consecutive ones the
back-off starts, away from the limit, or with offset 0 the position is zeroed at once; a failed transaction aborts. -/
def Obligations.StatusReadDebouncesTheStall : Prop :=
  ∀ (s t : State) (o : TxnOutcome), s.op = .opHome → s.transact (readFrame s.cfg.statusaddr) = (o, t) →
    let field (k : Fin 8) (w : Nat) : Nat := w / 2 ^ s.cfg.fields[k].lsb.toNat % 2 ^ s.cfg.fields[k].width.toNat
    let away : Sign := match s.hom.sign with | .plus => .minus | .minus => .plus
    (∀ rx, s.seq = .seekT1 → o = .ok rx → act s = .next { t with seq := .seekT2 }) ∧
    (∀ rx, s.seq = .seekT2 → o = .ok rx →
      let w : Nat := rx.b1.toNat * 2 ^ 24 + rx.b2.toNat * 2 ^ 16 + rx.b3.toNat * 2 ^ 8 + rx.b4.toNat
      ∀ c : Word,
        ((s.hom.pred = .predFlag ∧ field 0 w ≠ 0 ∨ s.hom.pred = .predAnalog ∧ field 7 w < s.cfg.sgthresh.toNat) ∧
            c = s.hom.c + 1 ∨
          ¬(s.hom.pred = .predFlag ∧ field 0 w ≠ 0 ∨ s.hom.pred = .predAnalog ∧ field 7 w < s.cfg.sgthresh.toNat) ∧
            c = 0) →
        let t' : State := { t with bus := { t.bus with result := BitVec.ofNat 32 w }, hom := { s.hom with c := c } }
        (c.toNat < s.cfg.homen.toNat → act s = .next { t' with seq := .seekStep }) ∧
        (s.cfg.homen.toNat ≤ c.toNat → s.cfg.homeoffset.toNat = 0 → act s = .next { t' with
          hstate := .hZeroed, position := 0, isMoving := false, out := t.out ++ [.evResp 0x03 .ok []],
          seq := .idle, op := .opNone, lastCode := .ok, cancelReq := false }) ∧
        (s.cfg.homen.toNat ≤ c.toNat → 0 < s.cfg.homeoffset.toNat → act s = .next { t' with
          hstate := .hConfirmed,
          prof := { sign := away, n := s.cfg.homeoffset.toNat, total := s.cfg.homeoffset.toNat,
                    ramp := s.cfg.homeoffset.toNat / 2, d0 := s.cfg.boidelay, dm := s.cfg.bomdelay, ovs := 0,
                    start := s.position, net := 0, ctx := .ctxHome },
          lines := { t.lines with dirSign := away }, out := t.out ++ [.evDir away], seq := .fwd 0 })) ∧
    (s.seq = .seekT1 ∨ s.seq = .seekT2 → o = .fail → act s = .next { t with
      hstate := .hIdle, isMoving := false, out := t.out ++ [.evResp 0x03 .busError []], seq := .idle,
      op := .opNone, lastCode := .busError, cancelReq := false })

/-- R144 and the source's §8.5 (`95_test_vectors.md` part 1), with `HOMEN = 1`: if the status reads after the first
`K - 1` seek steps do not hold the predicate and the one after step `K` does, the transition to `HConfirmed` is
made in that read's action, after exactly `K` pulses, and the back-off starts; nothing before it moves `position`. -/
def Obligations.HomingConfirmsAtStepK : Prop :=
  ∀ (s : State) (clear : List (Bytes5 × Bytes5)) (r1 r2 : Bytes5) (more : List PeerEntry),
    s.Inv → s.seq = .seekStep → s.agenda = [] → s.cancelReq = false → s.cfg.homen = 1 → s.cfg.homeoffset ≠ 0 →
    s.peer.script = clear.flatMap (fun r => [.answer (.ok r.1), .answer (.ok r.2)]) ++
      .answer (.ok r1) :: .answer (.ok r2) :: more →
    (∀ r ∈ clear, s.cfg.stall s.hom.pred r.2.payload = false) → s.cfg.stall s.hom.pred r2.payload = true →
    s.hom.s.toNat + clear.length + 1 ≤ s.cfg.homebudget.toNat →
    ∃ u : State, Host.Core.run Sys2Proof.core (3 * (clear.length + 1)) s = .next u ∧
      u.hstate = .hConfirmed ∧ u.seq = .fwd 0 ∧ u.hom.s.toNat = s.hom.s.toNat + clear.length + 1 ∧
      u.position = s.position ∧ u.peer.script = more ∧
      let tx := readFrame s.cfg.statusaddr
      let group (r : Bytes5 × Bytes5) : List Event :=
        [.evStep s.cfg.seekdelay.toNat, .evTxn tx r.1, .evTxn tx r.2]
      u.out = s.out ++ (clear ++ [(r1, r2)]).flatMap group ++ [.evDir (signFlip s.hom.sign)]

/-- R149 (an inference the spec marks as its own), R140, R184: a HOME that is not disturbed ends, in at most
`3*HOMEBUDGET + HOMEOFFSET + 3` actions, whatever the bus answers: zeroed with `position = 0`, or idle with
`position` unchanged; `isMoving` is 0 either way. -/
def Obligations.HomingAlwaysEnds : Prop :=
  ∀ s : State, s.Inv → s.op = .opHome → s.agenda = [] →
    ∃ (k : Nat) (u : State), k ≤ 3 * s.cfg.homebudget.toNat + s.cfg.homeoffset.toNat + 3 ∧
      Host.Core.run Sys2Proof.core k s = .next u ∧ u.seq = .idle ∧ u.op = .opNone ∧ u.isMoving = false ∧
      (u.hstate = .hZeroed ∧ u.position = 0 ∧ u.lastCode = .ok ∨
        u.hstate = .hIdle ∧ u.position = s.position ∧ u.lastCode ≠ .ok)

/-! ### The whole machine -/

/-- `93_implementation_defined.md` part 1: nothing in the block is stuck. Every step, from every state and on every
input, answers a next state; there is no fault and no refusal. -/
def Obligations.EveryStepAnswersANextState : Prop :=
  ∀ s : State, ∃ t : State, step s = .next t

/-- The invariant holds after reset. It has clauses of the model's own (`State.Inv.mem`, assumption 2). -/
def Obligations.ResetSatisfiesTheInvariant : Prop := State.reset.Inv

/-- R20 to R26, R92, R96, R140, R205: every step, on every input, keeps the invariant `State.Inv`, whose clauses name
their rules; `State.Inv.mem` is the model's own (assumption 2). -/
def Obligations.EveryStepKeepsTheInvariant : Prop :=
  ∀ s t : State, s.Inv → step s = .next t → t.Inv

/-- R222, R149 and R102 (the last two inferences the spec marks as its own): every operation ends: undisturbed, an
operation in progress reaches `Idle` in at most `actionsLeft` actions, and no command is waited for meanwhile. -/
def Obligations.EveryOperationEnds : Prop :=
  ∀ s : State, s.Inv → s.agenda = [] →
    ∃ (k : Nat) (u : State), k ≤ s.actionsLeft ∧ Host.Core.run Sys2Proof.core k s = .next u ∧ u.seq = .idle ∧
      u.op = .opNone ∧ u.isMoving = false

/-- R75, R180: every command packet gets exactly one response: at once, or, for the command that becomes the
operation in progress, when that ends. A packet adds one to the responses sent and owed together, a sequencer
action or a change of the chip adds none, so none is lost, doubled or invented. -/
def Obligations.OneResponsePerCommand : Prop :=
  ∀ s t : State, s.Inv → step s = .next t →
    (∀ p rest, s.agenda = .packet p :: rest → respCount t.out + t.owed = respCount s.out + s.owed + 1) ∧
    (s.agenda = [] ∨ s.agenda.head? = some .act ∨ (∃ a v, s.agenda.head? = some (.chipSet a v)) →
      respCount t.out + t.owed = respCount s.out + s.owed)

/-- R200: only the step actions of a MOVE and the action that zeroes a HOME write `position`, and only the actions
that start or end a MOVE or a HOME write `isMoving`; no other packet, no WREG or RREG, no change of the chip does. -/
def Obligations.OnlyTheOwnerWritesPosition : Prop :=
  ∀ s t : State, s.Inv → step s = .next t → s.agenda.head? ≠ some .reset →
    (t.position ≠ s.position →
      s.agenda = [] ∨ s.agenda.head? = some .act) ∧
    (t.position ≠ s.position → s.op = .opMove ∨ (s.op = .opHome ∧ t.position = 0 ∧ t.hstate = .hZeroed)) ∧
    (t.isMoving ≠ s.isMoving →
      (s.op = .opNone ∧ (t.op = .opMove ∨ t.op = .opHome)) ∨ ((s.op = .opMove ∨ s.op = .opHome) ∧ t.op = .opNone))

/-- R53: no configuration register changes during an operation. -/
def Obligations.ConfigurationIsStableDuringAnOperation : Prop :=
  ∀ s t : State, step s = .next t → s.agenda.head? ≠ some .reset → s.seq ≠ .idle → t.cfg = s.cfg

/-- R44, R54, R160: taking a packet, whatever it is and whenever it comes, makes no pulse, no pause and no bus
transaction, and does not touch the chip. -/
def Obligations.PacketsNeverPulseOrTransact : Prop :=
  ∀ (s t : State) (p : List Byte) (rest : List Input), s.agenda = .packet p :: rest → step s = .next t →
    ∃ new : List Event, t.out = s.out ++ new ∧
      (∀ e ∈ new, e.isStep = false ∧ e.isTxn = false ∧ ∀ d, e ≠ .evPause d) ∧
      t.peer = s.peer ∧ t.position = s.position

/-- R33: the trace only grows, except at a reset, and a sequencer action makes at most one pulse and at most one
transaction, never both. -/
def Obligations.TraceGrowsByAtMostOnePulseOrTransaction : Prop :=
  ∀ s t : State, step s = .next t → s.agenda.head? ≠ some .reset →
    ∃ new : List Event, t.out = s.out ++ new ∧ new.countP Event.isStep + new.countP Event.isTxn ≤ 1

/-- R181, R25: the codes sent are `0x00` to `0x08` without the reserved `0x04`, an error has no payload, and
`lastCode` changes only in the action that ends an operation, to the code sent in that action. -/
def Obligations.OnlyListedCodesAreSent : Prop :=
  ∀ s t : State, s.Inv → step s = .next t → s.agenda.head? ≠ some .reset →
    ∃ new : List Event, t.out = s.out ++ new ∧
      (∀ cmd code payload, Event.evResp cmd code payload ∈ new →
        (codeByte code).toNat ≤ 8 ∧ codeByte code ≠ 0x04 ∧ (code ≠ .ok → payload = [])) ∧
      (t.lastCode ≠ s.lastCode → s.op ≠ .opNone ∧ t.op = .opNone ∧
        ∃ cmd payload, Event.evResp cmd t.lastCode payload ∈ new)

/-- R190, R191: an operation that fails leaves the block idle with the code recorded, `isMoving` and `cancelReq` 0,
STEP low, chip-select deasserted, ENABLE and the configuration as they were, `position` unchanged but for a
cancelled MOVE, and a failed HOME in `HIdle`. -/
def Obligations.FailuresCleanUp : Prop :=
  ∀ s t : State, s.Inv → s.agenda = [] ∨ s.agenda.head? = some .act → step s = .next t →
    s.op ≠ .opNone → t.op = .opNone → t.lastCode ≠ .ok →
    t.seq = .idle ∧ t.isMoving = false ∧ t.cancelReq = false ∧ t.lines.stepLine = false ∧ t.lines.csOn = false ∧
      t.lines.enableOn = s.lines.enableOn ∧ t.lines.dirSign = s.lines.dirSign ∧ t.cfg = s.cfg ∧
      (t.position ≠ s.position → s.op = .opMove ∧ t.lastCode = .cancelled) ∧
      (s.op = .opHome → t.hstate = .hIdle) ∧ (s.op ≠ .opHome → t.hstate = s.hstate) ∧
      (t.lastCode = .busError → s.op = .opWreg ∨ s.op = .opRreg ∨ s.op = .opHome) ∧
      (t.lastCode = .homingTimeout → s.op = .opHome ∧ s.hom.s.toNat = s.cfg.homebudget.toNat) ∧
      (t.lastCode = .cancelled → (s.op = .opMove ∨ s.op = .opHome) ∧ s.cancelReq = true)

/-- R205: ENABLE is de-asserted after reset; only INIT asserts it, and nothing but reset de-asserts it. -/
def Obligations.EnableIsAssertedByInitAlone : Prop :=
  State.reset.lines.enableOn = false ∧
  ∀ s t : State, step s = .next t → s.agenda.head? ≠ some .reset →
    (s.lines.enableOn = true → t.lines.enableOn = true) ∧
    (s.lines.enableOn = false → t.lines.enableOn = true → s.agenda.head? = some (.packet [0x01]) ∧ s.seq = .idle)

/-- R16: the pin levels. At every boundary STEP is low and chip-select is at its inactive level; DIR is at `DIRPOS`
for `+1` and at the opposite level for `-1`; ENABLE is at `ENACT` exactly when the block is initialised. -/
def Obligations.PinsFollowTheLines : Prop :=
  ∀ s : State, s.Inv →
    s.stepPin = false ∧ s.csPin = !Config.csActiveLevel ∧
      (s.lines.dirSign = .plus → s.dirPin = s.cfg.pincfg.getLsbD 0) ∧
      (s.lines.dirSign = .minus → s.dirPin = !s.cfg.pincfg.getLsbD 0) ∧
      (s.initialized = true → s.enablePin = s.cfg.pincfg.getLsbD 1) ∧
      (s.initialized = false → s.enablePin = !s.cfg.pincfg.getLsbD 1)

/-- R12 to R15, R34, assumption 1: the latches that the spec leaves unspecified at reset are read by no rule before
it has written them. Two states that agree on everything but such latches step alike, on every input, to states that
again agree, traces included; so the values the model names for them at reset (assumption 1) change nothing that can
be seen. -/
def Obligations.UnreadLatchesNeverMatter : Prop :=
  ∀ s t s' : State, s.liveView = t.liveView → step s = .next s' →
    ∃ t' : State, step t = .next t' ∧ s'.liveView = t'.liveView

/-- R63, R47, R214: the bytes of the first transaction of a RREG, and byte 0 of the second, are discarded: two reads
whose answers differ only there answer the host alike and leave the same `bus.result`. -/
def Obligations.DiscardedReplyBytesNeverMatter : Prop :=
  ∀ (s : State) (a : Addr) (r1 r1' r2 : Bytes5) (x : Byte) (more : List PeerEntry),
    s.seq = .idle → s.initialized = true →
    let scripted (first second : Bytes5) : State := { s with
      agenda := [.packet (encode (.rreg a)), .act, .act],
      peer := { s.peer with script := .answer (.ok first) :: .answer (.ok second) :: more } }
    ∃ u u' : State,
      Host.Core.run Sys2Proof.core 3 (scripted r1 r2) = .next u ∧
      Host.Core.run Sys2Proof.core 3 (scripted r1' { r2 with b0 := x }) = .next u' ∧
      u.bus.result = u'.bus.result ∧ u.out.getLast? = u'.out.getLast? ∧
      u.out.getLast? = some (.evResp 0x05 .ok [r2.b1, r2.b2, r2.b3, r2.b4])
end

