-- ==== Sys2Proof/Laws/Bytes.lean ====
section
/-! SUPPORT. Bytes and words: assembling the bytes of a word gives the word back, and the other way. -/

namespace Sys2Proof

theorem be32_toNat (a b c d : Byte) :
    (be32 a b c d).toNat = a.toNat * 2 ^ 24 + b.toNat * 2 ^ 16 + c.toNat * 2 ^ 8 + d.toNat := by
  have ha := a.isLt
  have hb := b.isLt
  have hc := c.isLt
  have hd := d.isLt
  simp only [be32, BitVec.toNat_append]
  rw [Nat.shiftLeft_eq, ← Nat.shiftLeft_add_eq_or_of_lt (by omega), Nat.shiftLeft_eq]
  rw [← Nat.shiftLeft_eq, ← Nat.shiftLeft_add_eq_or_of_lt (by omega), Nat.shiftLeft_eq]
  rw [← Nat.shiftLeft_add_eq_or_of_lt (by omega), Nat.shiftLeft_eq]
  omega

theorem byteOf_toNat (v : Word) (k : Nat) : (byteOf v k).toNat = v.toNat / 256 ^ k % 256 := by
  simp only [byteOf, BitVec.extractLsb'_toNat, Nat.shiftRight_eq_div_pow]
  rw [Nat.pow_mul]

@[simp] theorem be32_byteOf (v : Word) :
    be32 (byteOf v 3) (byteOf v 2) (byteOf v 1) (byteOf v 0) = v := by
  apply BitVec.eq_of_toNat_eq
  have := v.isLt
  rw [be32_toNat]
  simp only [byteOf_toNat]
  omega

theorem byteOf_be32 (a b c d : Byte) :
    byteOf (be32 a b c d) 3 = a ∧ byteOf (be32 a b c d) 2 = b ∧ byteOf (be32 a b c d) 1 = c ∧
      byteOf (be32 a b c d) 0 = d := by
  have ha := a.isLt
  have hb := b.isLt
  have hc := c.isLt
  have hd := d.isLt
  refine ⟨?_, ?_, ?_, ?_⟩ <;> apply BitVec.eq_of_toNat_eq <;> rw [byteOf_toNat, be32_toNat] <;> omega

@[simp] theorem bytesBe32_be32 (a b c d : Byte) : bytesBe32 (be32 a b c d) = [a, b, c, d] := by
  obtain ⟨h3, h2, h1, h0⟩ := byteOf_be32 a b c d
  simp [bytesBe32, h3, h2, h1, h0]

@[simp] theorem frameOf_payload (h : Byte) (v : Word) : (frameOf h v).payload = v := be32_byteOf v

/-- The header of a frame names its address and its direction (`30_encoding.md` R60). -/
theorem header_write (a : Addr) : (1#1 ++ a : Byte).setWidth 7 = a ∧ (1#1 ++ a : Byte).getLsbD 7 = true := by
  revert a
  decide

theorem header_read (a : Addr) : (0#1 ++ a : Byte).setWidth 7 = a ∧ (0#1 ++ a : Byte).getLsbD 7 = false := by
  revert a
  decide

theorem header_eq (h : Byte) :
    (if h.getLsbD 7 then 1#1 ++ h.setWidth 7 else 0#1 ++ h.setWidth 7 : Byte) = h := by
  revert h
  decide

end Sys2Proof
end

