-- ==== Sys2Proof/Laws/Memory.lean ====
section
/-! SUPPORT. The chip register space: read after write, the canonical form, and registers as four cells. -/

namespace Sys2Proof.Machine

theorem Memory.readByte_below (m : Memory) (lo a : Nat) (h : Memory.wfFrom lo m = true) (ha : a < lo) :
    m.readByte a = Memory.unlisted := by
  induction m generalizing lo with
  | nil => rfl
  | cons e rest ih =>
    obtain ⟨b, v⟩ := e
    simp only [Memory.wfFrom, Bool.and_eq_true, decide_eq_true_eq] at h
    have hne : a ≠ b := by omega
    simp only [Memory.readByte, if_neg hne]
    exact ih (b + 1) h.2 (by omega)

theorem Memory.wfFrom_mono (m : Memory) (lo hi : Nat) (h : Memory.wfFrom hi m = true) (hl : lo ≤ hi) :
    Memory.wfFrom lo m = true := by
  cases m with
  | nil => rfl
  | cons e rest =>
    obtain ⟨b, v⟩ := e
    simp only [Memory.wfFrom, Bool.and_eq_true, decide_eq_true_eq] at h ⊢
    exact ⟨⟨by omega, h.1.2⟩, h.2⟩

theorem Memory.wfFrom_writeByte (m : Memory) (lo a : Nat) (v : Byte) (h : Memory.wfFrom lo m = true)
    (hlo : lo ≤ a) (ha : a < Memory.size) : Memory.wfFrom lo (m.writeByte a v) = true := by
  induction m generalizing lo with
  | nil =>
    simp only [Memory.writeByte]
    split
    · rfl
    · next hv => simp [Memory.wfFrom, hlo, ha, hv]
  | cons e rest ih =>
    obtain ⟨b, w⟩ := e
    have hb := h
    simp only [Memory.wfFrom, Bool.and_eq_true, decide_eq_true_eq] at hb
    obtain ⟨⟨hlb, hbs, hw⟩, hrest⟩ := hb
    simp only [Memory.writeByte]
    split
    · next hab =>
      split
      · exact h
      · next hv =>
        simp only [Memory.wfFrom, Bool.and_eq_true, decide_eq_true_eq]
        exact ⟨⟨hlo, ha, hv⟩, ⟨by omega, hbs, hw⟩, hrest⟩
    · split
      · next hab =>
        split
        · exact Memory.wfFrom_mono rest lo (b + 1) hrest (by omega)
        · next hv =>
          simp only [Memory.wfFrom, Bool.and_eq_true, decide_eq_true_eq]
          exact ⟨⟨hlo, ha, hv⟩, hab ▸ hrest⟩
      · next h1 h2 =>
        simp only [Memory.wfFrom, Bool.and_eq_true, decide_eq_true_eq]
        exact ⟨⟨hlb, hbs, hw⟩, ih (b + 1) hrest (by omega)⟩

/-- Every byte write keeps the canonical form. -/
theorem Memory.wf_writeByte (m : Memory) (a : Nat) (v : Byte) (h : m.wf = true) (ha : a < Memory.size) :
    (m.writeByte a v).wf = true :=
  Memory.wfFrom_writeByte m 0 a v h (Nat.zero_le a) ha

theorem Memory.readByte_writeByte_from (m : Memory) (lo a b : Nat) (v : Byte) (h : Memory.wfFrom lo m = true) :
    (m.writeByte a v).readByte b = if b = a then v else m.readByte b := by
  induction m generalizing lo with
  | nil =>
    simp only [Memory.writeByte]
    split
    · next hv => simp [Memory.readByte, hv]
    · simp [Memory.readByte]
  | cons e rest ih =>
    obtain ⟨c, w⟩ := e
    have hrest : Memory.wfFrom (c + 1) rest = true := by
      simp only [Memory.wfFrom, Bool.and_eq_true] at h
      exact h.2
    simp only [Memory.writeByte]
    split
    · next hac =>
      split
      · next hv =>
        split
        · next hba =>
          subst hba
          have hne : b ≠ c := by omega
          rw [hv, Memory.readByte, if_neg hne]
          exact Memory.readByte_below rest (c + 1) b hrest (by omega)
        · rfl
      · simp [Memory.readByte]
    · split
      · next hac =>
        subst hac
        split
        · next hv =>
          split
          · next hba =>
            subst hba
            rw [hv]
            exact Memory.readByte_below rest (b + 1) b hrest (by omega)
          · next hba => simp [Memory.readByte, hba]
        · by_cases hba : b = a <;> simp [Memory.readByte, hba]
      · next h1 h2 =>
        simp only [Memory.readByte]
        split
        · next hbc =>
          subst hbc
          rw [if_neg (fun hh => h2 hh.symm)]
        · exact ih (c + 1) hrest

/-- Read after write: the written byte where it was written, the old byte everywhere else. -/
theorem Memory.readByte_writeByte (m : Memory) (a b : Nat) (v : Byte) (h : m.wf = true) :
    (m.writeByte a v).readByte b = if b = a then v else m.readByte b :=
  Memory.readByte_writeByte_from m 0 a b v h

theorem cellOf_lt (a : Addr) (k : Nat) (hk : k < 4) : cellOf a k < Memory.size := by
  have := a.isLt
  simp only [cellOf, Memory.size]
  omega

theorem Memory.wf_writeReg (m : Memory) (a : Addr) (v : Word) (h : m.wf = true) : (m.writeReg a v).wf = true := by
  have h0 := cellOf_lt a 0 (by omega)
  have h1 := cellOf_lt a 1 (by omega)
  have h2 := cellOf_lt a 2 (by omega)
  have h3 := cellOf_lt a 3 (by omega)
  exact Memory.wf_writeByte _ _ _ (Memory.wf_writeByte _ _ _ (Memory.wf_writeByte _ _ _
    (Memory.wf_writeByte _ _ _ h h0) h1) h2) h3

/-- A register write seen through the read of one cell. -/
theorem Memory.readByte_writeReg (m : Memory) (a : Addr) (v : Word) (b : Nat) (h : m.wf = true) :
    (m.writeReg a v).readByte b =
      if b = cellOf a 0 then byteOf v 3 else if b = cellOf a 1 then byteOf v 2
      else if b = cellOf a 2 then byteOf v 1 else if b = cellOf a 3 then byteOf v 0 else m.readByte b := by
  have w0 := Memory.wf_writeByte m _ (byteOf v 3) h (cellOf_lt a 0 (by omega))
  have w1 := Memory.wf_writeByte _ _ (byteOf v 2) w0 (cellOf_lt a 1 (by omega))
  have w2 := Memory.wf_writeByte _ _ (byteOf v 1) w1 (cellOf_lt a 2 (by omega))
  simp only [Memory.writeReg]
  rw [Memory.readByte_writeByte _ _ _ _ w2, Memory.readByte_writeByte _ _ _ _ w1,
    Memory.readByte_writeByte _ _ _ _ w0, Memory.readByte_writeByte _ _ _ _ h]
  have c1 : cellOf a 1 = cellOf a 0 + 1 := rfl
  have c2 : cellOf a 2 = cellOf a 0 + 2 := rfl
  have c3 : cellOf a 3 = cellOf a 0 + 3 := rfl
  rw [c1, c2, c3]
  by_cases h0 : b = cellOf a 0
  · simp [h0]
  by_cases h1 : b = cellOf a 0 + 1
  · simp [h1]
  by_cases h2 : b = cellOf a 0 + 2
  · simp [h2]
  by_cases h3 : b = cellOf a 0 + 3
  · simp [h3]
  simp [h0, h1, h2, h3]

/-- Register read after register write. -/
theorem Memory.readReg_writeReg (m : Memory) (a b : Addr) (v : Word) (h : m.wf = true) :
    (m.writeReg a v).readReg b = if b = a then v else m.readReg b := by
  by_cases hab : b = a
  · subst hab
    rw [if_pos rfl]
    simp only [Memory.readReg, Memory.readByte_writeReg _ _ _ _ h, cellOf]
    simp
  · have hne : a.toNat ≠ b.toNat := fun hh => hab (BitVec.eq_of_toNat_eq hh.symm)
    rw [if_neg hab]
    have key : ∀ k, k < 4 → (m.writeReg a v).readByte (cellOf b k) = m.readByte (cellOf b k) := by
      intro k hk
      have hc : ∀ j, j < 4 → cellOf b k ≠ cellOf a j := by
        intro j hj
        simp only [cellOf]
        omega
      rw [Memory.readByte_writeReg _ _ _ _ h, if_neg (hc 0 (by omega)), if_neg (hc 1 (by omega)),
        if_neg (hc 2 (by omega)), if_neg (hc 3 (by omega))]
    simp only [Memory.readReg, key 0 (by omega), key 1 (by omega), key 2 (by omega), key 3 (by omega)]

end Sys2Proof.Machine
end

