-- ==== Sys2Proof/Laws/State.lean ====
section
/-! SUPPORT. One lemma per field and operation on the state: what the operation leaves in the field. With
these no proof unfolds a record update. -/

namespace Sys2Proof.Machine

/-! `State.emit` changes the trace alone. -/

@[simp] theorem State.emit_position (e : Event) (s : State) : (s.emit e).position = s.position := rfl
@[simp] theorem State.emit_req (e : Event) (s : State) : (s.emit e).req = s.req := rfl
@[simp] theorem State.emit_prof (e : Event) (s : State) : (s.emit e).prof = s.prof := rfl
@[simp] theorem State.emit_bus (e : Event) (s : State) : (s.emit e).bus = s.bus := rfl
@[simp] theorem State.emit_hom (e : Event) (s : State) : (s.emit e).hom = s.hom := rfl
@[simp] theorem State.emit_lines (e : Event) (s : State) : (s.emit e).lines = s.lines := rfl
@[simp] theorem State.emit_op (e : Event) (s : State) : (s.emit e).op = s.op := rfl
@[simp] theorem State.emit_seq (e : Event) (s : State) : (s.emit e).seq = s.seq := rfl
@[simp] theorem State.emit_hstate (e : Event) (s : State) : (s.emit e).hstate = s.hstate := rfl
@[simp] theorem State.emit_isMoving (e : Event) (s : State) : (s.emit e).isMoving = s.isMoving := rfl
@[simp] theorem State.emit_initialized (e : Event) (s : State) : (s.emit e).initialized = s.initialized := rfl
@[simp] theorem State.emit_cancelReq (e : Event) (s : State) : (s.emit e).cancelReq = s.cancelReq := rfl
@[simp] theorem State.emit_lastCode (e : Event) (s : State) : (s.emit e).lastCode = s.lastCode := rfl
@[simp] theorem State.emit_cfg (e : Event) (s : State) : (s.emit e).cfg = s.cfg := rfl
@[simp] theorem State.emit_out (e : Event) (s : State) : (s.emit e).out = s.out ++ [e] := rfl
@[simp] theorem State.emit_peer (e : Event) (s : State) : (s.emit e).peer = s.peer := rfl
@[simp] theorem State.emit_agenda (e : Event) (s : State) : (s.emit e).agenda = s.agenda := rfl
@[simp] theorem State.emit_draws (e : Event) (s : State) : (s.emit e).draws = s.draws := rfl

/-! `State.respond` changes the trace alone. -/

@[simp] theorem State.respond_position (cmd : Byte) (code : Code) (p : List Byte) (s : State) :
    (s.respond cmd code p).position =
      s.position := rfl
@[simp] theorem State.respond_req (cmd : Byte) (code : Code) (p : List Byte) (s : State) :
    (s.respond cmd code p).req =
      s.req := rfl
@[simp] theorem State.respond_prof (cmd : Byte) (code : Code) (p : List Byte) (s : State) :
    (s.respond cmd code p).prof =
      s.prof := rfl
@[simp] theorem State.respond_bus (cmd : Byte) (code : Code) (p : List Byte) (s : State) :
    (s.respond cmd code p).bus =
      s.bus := rfl
@[simp] theorem State.respond_hom (cmd : Byte) (code : Code) (p : List Byte) (s : State) :
    (s.respond cmd code p).hom =
      s.hom := rfl
@[simp] theorem State.respond_lines (cmd : Byte) (code : Code) (p : List Byte) (s : State) :
    (s.respond cmd code p).lines =
      s.lines := rfl
@[simp] theorem State.respond_op (cmd : Byte) (code : Code) (p : List Byte) (s : State) :
    (s.respond cmd code p).op =
      s.op := rfl
@[simp] theorem State.respond_seq (cmd : Byte) (code : Code) (p : List Byte) (s : State) :
    (s.respond cmd code p).seq =
      s.seq := rfl
@[simp] theorem State.respond_hstate (cmd : Byte) (code : Code) (p : List Byte) (s : State) :
    (s.respond cmd code p).hstate =
      s.hstate := rfl
@[simp] theorem State.respond_isMoving (cmd : Byte) (code : Code) (p : List Byte) (s : State) :
    (s.respond cmd code p).isMoving =
      s.isMoving := rfl
@[simp] theorem State.respond_initialized (cmd : Byte) (code : Code) (p : List Byte) (s : State) :
    (s.respond cmd code p).initialized =
      s.initialized := rfl
@[simp] theorem State.respond_cancelReq (cmd : Byte) (code : Code) (p : List Byte) (s : State) :
    (s.respond cmd code p).cancelReq =
      s.cancelReq := rfl
@[simp] theorem State.respond_lastCode (cmd : Byte) (code : Code) (p : List Byte) (s : State) :
    (s.respond cmd code p).lastCode =
      s.lastCode := rfl
@[simp] theorem State.respond_cfg (cmd : Byte) (code : Code) (p : List Byte) (s : State) :
    (s.respond cmd code p).cfg =
      s.cfg := rfl
@[simp] theorem State.respond_out (cmd : Byte) (code : Code) (p : List Byte) (s : State) :
    (s.respond cmd code p).out =
      s.out ++ [.evResp cmd code p] := rfl
@[simp] theorem State.respond_peer (cmd : Byte) (code : Code) (p : List Byte) (s : State) :
    (s.respond cmd code p).peer =
      s.peer := rfl
@[simp] theorem State.respond_agenda (cmd : Byte) (code : Code) (p : List Byte) (s : State) :
    (s.respond cmd code p).agenda =
      s.agenda := rfl
@[simp] theorem State.respond_draws (cmd : Byte) (code : Code) (p : List Byte) (s : State) :
    (s.respond cmd code p).draws =
      s.draws := rfl

/-! `State.refuse` changes the trace alone. -/

@[simp] theorem State.refuse_position (cmd : Byte) (code : Code) (s : State) :
    (s.refuse cmd code).position =
      s.position := rfl
@[simp] theorem State.refuse_req (cmd : Byte) (code : Code) (s : State) : (s.refuse cmd code).req = s.req := rfl
@[simp] theorem State.refuse_prof (cmd : Byte) (code : Code) (s : State) : (s.refuse cmd code).prof = s.prof := rfl
@[simp] theorem State.refuse_bus (cmd : Byte) (code : Code) (s : State) : (s.refuse cmd code).bus = s.bus := rfl
@[simp] theorem State.refuse_hom (cmd : Byte) (code : Code) (s : State) : (s.refuse cmd code).hom = s.hom := rfl
@[simp] theorem State.refuse_lines (cmd : Byte) (code : Code) (s : State) : (s.refuse cmd code).lines = s.lines := rfl
@[simp] theorem State.refuse_op (cmd : Byte) (code : Code) (s : State) : (s.refuse cmd code).op = s.op := rfl
@[simp] theorem State.refuse_seq (cmd : Byte) (code : Code) (s : State) : (s.refuse cmd code).seq = s.seq := rfl
@[simp] theorem State.refuse_hstate (cmd : Byte) (code : Code) (s : State) :
    (s.refuse cmd code).hstate =
      s.hstate := rfl
@[simp] theorem State.refuse_isMoving (cmd : Byte) (code : Code) (s : State) :
    (s.refuse cmd code).isMoving =
      s.isMoving := rfl
@[simp] theorem State.refuse_initialized (cmd : Byte) (code : Code) (s : State) :
    (s.refuse cmd code).initialized =
      s.initialized := rfl
@[simp] theorem State.refuse_cancelReq (cmd : Byte) (code : Code) (s : State) :
    (s.refuse cmd code).cancelReq =
      s.cancelReq := rfl
@[simp] theorem State.refuse_lastCode (cmd : Byte) (code : Code) (s : State) :
    (s.refuse cmd code).lastCode =
      s.lastCode := rfl
@[simp] theorem State.refuse_cfg (cmd : Byte) (code : Code) (s : State) : (s.refuse cmd code).cfg = s.cfg := rfl
@[simp] theorem State.refuse_out (cmd : Byte) (code : Code) (s : State) :
    (s.refuse cmd code).out =
      s.out ++ [.evResp cmd code []] := rfl
@[simp] theorem State.refuse_peer (cmd : Byte) (code : Code) (s : State) : (s.refuse cmd code).peer = s.peer := rfl
@[simp] theorem State.refuse_agenda (cmd : Byte) (code : Code) (s : State) :
    (s.refuse cmd code).agenda =
      s.agenda := rfl
@[simp] theorem State.refuse_draws (cmd : Byte) (code : Code) (s : State) : (s.refuse cmd code).draws = s.draws := rfl

/-! `State.complete` ends the operation. -/

@[simp] theorem State.complete_position (code : Code) (p : List Byte) (s : State) :
    (s.complete code p).position =
      s.position := rfl
@[simp] theorem State.complete_req (code : Code) (p : List Byte) (s : State) : (s.complete code p).req = s.req := rfl
@[simp] theorem State.complete_prof (code : Code) (p : List Byte) (s : State) :
    (s.complete code p).prof =
      s.prof := rfl
@[simp] theorem State.complete_bus (code : Code) (p : List Byte) (s : State) : (s.complete code p).bus = s.bus := rfl
@[simp] theorem State.complete_hom (code : Code) (p : List Byte) (s : State) : (s.complete code p).hom = s.hom := rfl
@[simp] theorem State.complete_lines (code : Code) (p : List Byte) (s : State) :
    (s.complete code p).lines =
      s.lines := rfl
@[simp] theorem State.complete_op (code : Code) (p : List Byte) (s : State) : (s.complete code p).op = .opNone := rfl
@[simp] theorem State.complete_seq (code : Code) (p : List Byte) (s : State) : (s.complete code p).seq = .idle := rfl
@[simp] theorem State.complete_hstate (code : Code) (p : List Byte) (s : State) :
    (s.complete code p).hstate =
      s.hstate := rfl
@[simp] theorem State.complete_isMoving (code : Code) (p : List Byte) (s : State) :
    (s.complete code p).isMoving =
      s.isMoving := rfl
@[simp] theorem State.complete_initialized (code : Code) (p : List Byte) (s : State) :
    (s.complete code p).initialized =
      s.initialized := rfl
@[simp] theorem State.complete_cancelReq (code : Code) (p : List Byte) (s : State) :
    (s.complete code p).cancelReq =
      false := rfl
@[simp] theorem State.complete_lastCode (code : Code) (p : List Byte) (s : State) :
    (s.complete code p).lastCode =
      code := rfl
@[simp] theorem State.complete_cfg (code : Code) (p : List Byte) (s : State) : (s.complete code p).cfg = s.cfg := rfl
@[simp] theorem State.complete_out (code : Code) (p : List Byte) (s : State) :
    (s.complete code p).out =
      s.out ++ [.evResp (opcodeOfOp s.op) code p] := rfl
@[simp] theorem State.complete_peer (code : Code) (p : List Byte) (s : State) :
    (s.complete code p).peer =
      s.peer := rfl
@[simp] theorem State.complete_agenda (code : Code) (p : List Byte) (s : State) :
    (s.complete code p).agenda =
      s.agenda := rfl
@[simp] theorem State.complete_draws (code : Code) (p : List Byte) (s : State) :
    (s.complete code p).draws =
      s.draws := rfl

/-! `State.homeCleanUp`. -/

@[simp] theorem State.homeCleanUp_position (s : State) : (s.homeCleanUp).position = s.position := rfl
@[simp] theorem State.homeCleanUp_req (s : State) : (s.homeCleanUp).req = s.req := rfl
@[simp] theorem State.homeCleanUp_prof (s : State) : (s.homeCleanUp).prof = s.prof := rfl
@[simp] theorem State.homeCleanUp_bus (s : State) : (s.homeCleanUp).bus = s.bus := rfl
@[simp] theorem State.homeCleanUp_hom (s : State) : (s.homeCleanUp).hom = s.hom := rfl
@[simp] theorem State.homeCleanUp_lines (s : State) : (s.homeCleanUp).lines = s.lines := rfl
@[simp] theorem State.homeCleanUp_op (s : State) : (s.homeCleanUp).op = s.op := rfl
@[simp] theorem State.homeCleanUp_seq (s : State) : (s.homeCleanUp).seq = s.seq := rfl
@[simp] theorem State.homeCleanUp_hstate (s : State) : (s.homeCleanUp).hstate = .hIdle := rfl
@[simp] theorem State.homeCleanUp_isMoving (s : State) : (s.homeCleanUp).isMoving = false := rfl
@[simp] theorem State.homeCleanUp_initialized (s : State) : (s.homeCleanUp).initialized = s.initialized := rfl
@[simp] theorem State.homeCleanUp_cancelReq (s : State) : (s.homeCleanUp).cancelReq = s.cancelReq := rfl
@[simp] theorem State.homeCleanUp_lastCode (s : State) : (s.homeCleanUp).lastCode = s.lastCode := rfl
@[simp] theorem State.homeCleanUp_cfg (s : State) : (s.homeCleanUp).cfg = s.cfg := rfl
@[simp] theorem State.homeCleanUp_out (s : State) : (s.homeCleanUp).out = s.out := rfl
@[simp] theorem State.homeCleanUp_peer (s : State) : (s.homeCleanUp).peer = s.peer := rfl
@[simp] theorem State.homeCleanUp_agenda (s : State) : (s.homeCleanUp).agenda = s.agenda := rfl
@[simp] theorem State.homeCleanUp_draws (s : State) : (s.homeCleanUp).draws = s.draws := rfl

/-! `State.moveCleanUp`. -/

@[simp] theorem State.moveCleanUp_position (s : State) :
    (s.moveCleanUp).position =
      BitVec.ofInt 32 (s.prof.start.toInt + signToInt s.prof.sign * s.prof.net) := rfl
@[simp] theorem State.moveCleanUp_req (s : State) : (s.moveCleanUp).req = s.req := rfl
@[simp] theorem State.moveCleanUp_prof (s : State) : (s.moveCleanUp).prof = s.prof := rfl
@[simp] theorem State.moveCleanUp_bus (s : State) : (s.moveCleanUp).bus = s.bus := rfl
@[simp] theorem State.moveCleanUp_hom (s : State) : (s.moveCleanUp).hom = s.hom := rfl
@[simp] theorem State.moveCleanUp_lines (s : State) : (s.moveCleanUp).lines = s.lines := rfl
@[simp] theorem State.moveCleanUp_op (s : State) : (s.moveCleanUp).op = s.op := rfl
@[simp] theorem State.moveCleanUp_seq (s : State) : (s.moveCleanUp).seq = s.seq := rfl
@[simp] theorem State.moveCleanUp_hstate (s : State) : (s.moveCleanUp).hstate = s.hstate := rfl
@[simp] theorem State.moveCleanUp_isMoving (s : State) : (s.moveCleanUp).isMoving = false := rfl
@[simp] theorem State.moveCleanUp_initialized (s : State) : (s.moveCleanUp).initialized = s.initialized := rfl
@[simp] theorem State.moveCleanUp_cancelReq (s : State) : (s.moveCleanUp).cancelReq = s.cancelReq := rfl
@[simp] theorem State.moveCleanUp_lastCode (s : State) : (s.moveCleanUp).lastCode = s.lastCode := rfl
@[simp] theorem State.moveCleanUp_cfg (s : State) : (s.moveCleanUp).cfg = s.cfg := rfl
@[simp] theorem State.moveCleanUp_out (s : State) : (s.moveCleanUp).out = s.out := rfl
@[simp] theorem State.moveCleanUp_peer (s : State) : (s.moveCleanUp).peer = s.peer := rfl
@[simp] theorem State.moveCleanUp_agenda (s : State) : (s.moveCleanUp).agenda = s.agenda := rfl
@[simp] theorem State.moveCleanUp_draws (s : State) : (s.moveCleanUp).draws = s.draws := rfl

/-! `State.pulse` leaves STEP low. -/

@[simp] theorem State.pulse_position (d : Rat) (s : State) : (s.pulse d).position = s.position := rfl
@[simp] theorem State.pulse_req (d : Rat) (s : State) : (s.pulse d).req = s.req := rfl
@[simp] theorem State.pulse_prof (d : Rat) (s : State) : (s.pulse d).prof = s.prof := rfl
@[simp] theorem State.pulse_bus (d : Rat) (s : State) : (s.pulse d).bus = s.bus := rfl
@[simp] theorem State.pulse_hom (d : Rat) (s : State) : (s.pulse d).hom = s.hom := rfl
@[simp] theorem State.pulse_lines (d : Rat) (s : State) :
    (s.pulse d).lines =
      { s.lines with stepLine := false } := rfl
@[simp] theorem State.pulse_op (d : Rat) (s : State) : (s.pulse d).op = s.op := rfl
@[simp] theorem State.pulse_seq (d : Rat) (s : State) : (s.pulse d).seq = s.seq := rfl
@[simp] theorem State.pulse_hstate (d : Rat) (s : State) : (s.pulse d).hstate = s.hstate := rfl
@[simp] theorem State.pulse_isMoving (d : Rat) (s : State) : (s.pulse d).isMoving = s.isMoving := rfl
@[simp] theorem State.pulse_initialized (d : Rat) (s : State) : (s.pulse d).initialized = s.initialized := rfl
@[simp] theorem State.pulse_cancelReq (d : Rat) (s : State) : (s.pulse d).cancelReq = s.cancelReq := rfl
@[simp] theorem State.pulse_lastCode (d : Rat) (s : State) : (s.pulse d).lastCode = s.lastCode := rfl
@[simp] theorem State.pulse_cfg (d : Rat) (s : State) : (s.pulse d).cfg = s.cfg := rfl
@[simp] theorem State.pulse_out (d : Rat) (s : State) : (s.pulse d).out = s.out ++ [.evStep d] := rfl
@[simp] theorem State.pulse_peer (d : Rat) (s : State) : (s.pulse d).peer = s.peer := rfl
@[simp] theorem State.pulse_agenda (d : Rat) (s : State) : (s.pulse d).agenda = s.agenda := rfl
@[simp] theorem State.pulse_draws (d : Rat) (s : State) : (s.pulse d).draws = s.draws := rfl

/-! `State.driveDir` drives DIR. -/

@[simp] theorem State.driveDir_position (g : Sign) (s : State) : (s.driveDir g).position = s.position := rfl
@[simp] theorem State.driveDir_req (g : Sign) (s : State) : (s.driveDir g).req = s.req := rfl
@[simp] theorem State.driveDir_prof (g : Sign) (s : State) : (s.driveDir g).prof = s.prof := rfl
@[simp] theorem State.driveDir_bus (g : Sign) (s : State) : (s.driveDir g).bus = s.bus := rfl
@[simp] theorem State.driveDir_hom (g : Sign) (s : State) : (s.driveDir g).hom = s.hom := rfl
@[simp] theorem State.driveDir_lines (g : Sign) (s : State) :
    (s.driveDir g).lines =
      { s.lines with dirSign := g } := rfl
@[simp] theorem State.driveDir_op (g : Sign) (s : State) : (s.driveDir g).op = s.op := rfl
@[simp] theorem State.driveDir_seq (g : Sign) (s : State) : (s.driveDir g).seq = s.seq := rfl
@[simp] theorem State.driveDir_hstate (g : Sign) (s : State) : (s.driveDir g).hstate = s.hstate := rfl
@[simp] theorem State.driveDir_isMoving (g : Sign) (s : State) : (s.driveDir g).isMoving = s.isMoving := rfl
@[simp] theorem State.driveDir_initialized (g : Sign) (s : State) : (s.driveDir g).initialized = s.initialized := rfl
@[simp] theorem State.driveDir_cancelReq (g : Sign) (s : State) : (s.driveDir g).cancelReq = s.cancelReq := rfl
@[simp] theorem State.driveDir_lastCode (g : Sign) (s : State) : (s.driveDir g).lastCode = s.lastCode := rfl
@[simp] theorem State.driveDir_cfg (g : Sign) (s : State) : (s.driveDir g).cfg = s.cfg := rfl
@[simp] theorem State.driveDir_out (g : Sign) (s : State) : (s.driveDir g).out = s.out ++ [.evDir g] := rfl
@[simp] theorem State.driveDir_peer (g : Sign) (s : State) : (s.driveDir g).peer = s.peer := rfl
@[simp] theorem State.driveDir_agenda (g : Sign) (s : State) : (s.driveDir g).agenda = s.agenda := rfl
@[simp] theorem State.driveDir_draws (g : Sign) (s : State) : (s.driveDir g).draws = s.draws := rfl

/-! `State.driveEnable` drives ENABLE. -/

@[simp] theorem State.driveEnable_position (b : Bool) (s : State) : (s.driveEnable b).position = s.position := rfl
@[simp] theorem State.driveEnable_req (b : Bool) (s : State) : (s.driveEnable b).req = s.req := rfl
@[simp] theorem State.driveEnable_prof (b : Bool) (s : State) : (s.driveEnable b).prof = s.prof := rfl
@[simp] theorem State.driveEnable_bus (b : Bool) (s : State) : (s.driveEnable b).bus = s.bus := rfl
@[simp] theorem State.driveEnable_hom (b : Bool) (s : State) : (s.driveEnable b).hom = s.hom := rfl
@[simp] theorem State.driveEnable_lines (b : Bool) (s : State) :
    (s.driveEnable b).lines =
      { s.lines with enableOn := b } := rfl
@[simp] theorem State.driveEnable_op (b : Bool) (s : State) : (s.driveEnable b).op = s.op := rfl
@[simp] theorem State.driveEnable_seq (b : Bool) (s : State) : (s.driveEnable b).seq = s.seq := rfl
@[simp] theorem State.driveEnable_hstate (b : Bool) (s : State) : (s.driveEnable b).hstate = s.hstate := rfl
@[simp] theorem State.driveEnable_isMoving (b : Bool) (s : State) : (s.driveEnable b).isMoving = s.isMoving := rfl
@[simp] theorem State.driveEnable_initialized (b : Bool) (s : State) :
    (s.driveEnable b).initialized =
      s.initialized := rfl
@[simp] theorem State.driveEnable_cancelReq (b : Bool) (s : State) : (s.driveEnable b).cancelReq = s.cancelReq := rfl
@[simp] theorem State.driveEnable_lastCode (b : Bool) (s : State) : (s.driveEnable b).lastCode = s.lastCode := rfl
@[simp] theorem State.driveEnable_cfg (b : Bool) (s : State) : (s.driveEnable b).cfg = s.cfg := rfl
@[simp] theorem State.driveEnable_out (b : Bool) (s : State) : (s.driveEnable b).out = s.out ++ [.evEnable b] := rfl
@[simp] theorem State.driveEnable_peer (b : Bool) (s : State) : (s.driveEnable b).peer = s.peer := rfl
@[simp] theorem State.driveEnable_agenda (b : Bool) (s : State) : (s.driveEnable b).agenda = s.agenda := rfl
@[simp] theorem State.driveEnable_draws (b : Bool) (s : State) : (s.driveEnable b).draws = s.draws := rfl

/-! `State.setCs` drives chip-select. -/

@[simp] theorem State.setCs_position (b : Bool) (s : State) : (s.setCs b).position = s.position := rfl
@[simp] theorem State.setCs_req (b : Bool) (s : State) : (s.setCs b).req = s.req := rfl
@[simp] theorem State.setCs_prof (b : Bool) (s : State) : (s.setCs b).prof = s.prof := rfl
@[simp] theorem State.setCs_bus (b : Bool) (s : State) : (s.setCs b).bus = s.bus := rfl
@[simp] theorem State.setCs_hom (b : Bool) (s : State) : (s.setCs b).hom = s.hom := rfl
@[simp] theorem State.setCs_lines (b : Bool) (s : State) : (s.setCs b).lines = { s.lines with csOn := b } := rfl
@[simp] theorem State.setCs_op (b : Bool) (s : State) : (s.setCs b).op = s.op := rfl
@[simp] theorem State.setCs_seq (b : Bool) (s : State) : (s.setCs b).seq = s.seq := rfl
@[simp] theorem State.setCs_hstate (b : Bool) (s : State) : (s.setCs b).hstate = s.hstate := rfl
@[simp] theorem State.setCs_isMoving (b : Bool) (s : State) : (s.setCs b).isMoving = s.isMoving := rfl
@[simp] theorem State.setCs_initialized (b : Bool) (s : State) : (s.setCs b).initialized = s.initialized := rfl
@[simp] theorem State.setCs_cancelReq (b : Bool) (s : State) : (s.setCs b).cancelReq = s.cancelReq := rfl
@[simp] theorem State.setCs_lastCode (b : Bool) (s : State) : (s.setCs b).lastCode = s.lastCode := rfl
@[simp] theorem State.setCs_cfg (b : Bool) (s : State) : (s.setCs b).cfg = s.cfg := rfl
@[simp] theorem State.setCs_out (b : Bool) (s : State) : (s.setCs b).out = s.out := rfl
@[simp] theorem State.setCs_peer (b : Bool) (s : State) : (s.setCs b).peer = s.peer := rfl
@[simp] theorem State.setCs_agenda (b : Bool) (s : State) : (s.setCs b).agenda = s.agenda := rfl
@[simp] theorem State.setCs_draws (b : Bool) (s : State) : (s.setCs b).draws = s.draws := rfl

/-! `State.startProfile` starts a run. -/

@[simp] theorem State.startProfile_position (g : Sign) (n : Nat) (ovs d0 dm : Word) (x : Ctx) (s : State) :
    (s.startProfile g n ovs d0 dm x).position =
      s.position := rfl
@[simp] theorem State.startProfile_req (g : Sign) (n : Nat) (ovs d0 dm : Word) (x : Ctx) (s : State) :
    (s.startProfile g n ovs d0 dm x).req =
      s.req := rfl
@[simp] theorem State.startProfile_prof (g : Sign) (n : Nat) (ovs d0 dm : Word) (x : Ctx) (s : State) :
    (s.startProfile g n ovs d0 dm x).prof =
      profOf g n ovs d0 dm s.position x := rfl
@[simp] theorem State.startProfile_bus (g : Sign) (n : Nat) (ovs d0 dm : Word) (x : Ctx) (s : State) :
    (s.startProfile g n ovs d0 dm x).bus =
      s.bus := rfl
@[simp] theorem State.startProfile_hom (g : Sign) (n : Nat) (ovs d0 dm : Word) (x : Ctx) (s : State) :
    (s.startProfile g n ovs d0 dm x).hom =
      s.hom := rfl
@[simp] theorem State.startProfile_lines (g : Sign) (n : Nat) (ovs d0 dm : Word) (x : Ctx) (s : State) :
    (s.startProfile g n ovs d0 dm x).lines =
      { s.lines with dirSign := g } := rfl
@[simp] theorem State.startProfile_op (g : Sign) (n : Nat) (ovs d0 dm : Word) (x : Ctx) (s : State) :
    (s.startProfile g n ovs d0 dm x).op =
      s.op := rfl
@[simp] theorem State.startProfile_seq (g : Sign) (n : Nat) (ovs d0 dm : Word) (x : Ctx) (s : State) :
    (s.startProfile g n ovs d0 dm x).seq =
      .fwd 0 := rfl
@[simp] theorem State.startProfile_hstate (g : Sign) (n : Nat) (ovs d0 dm : Word) (x : Ctx) (s : State) :
    (s.startProfile g n ovs d0 dm x).hstate =
      s.hstate := rfl
@[simp] theorem State.startProfile_isMoving (g : Sign) (n : Nat) (ovs d0 dm : Word) (x : Ctx) (s : State) :
    (s.startProfile g n ovs d0 dm x).isMoving =
      s.isMoving := rfl
@[simp] theorem State.startProfile_initialized (g : Sign) (n : Nat) (ovs d0 dm : Word) (x : Ctx) (s : State) :
    (s.startProfile g n ovs d0 dm x).initialized =
      s.initialized := rfl
@[simp] theorem State.startProfile_cancelReq (g : Sign) (n : Nat) (ovs d0 dm : Word) (x : Ctx) (s : State) :
    (s.startProfile g n ovs d0 dm x).cancelReq =
      s.cancelReq := rfl
@[simp] theorem State.startProfile_lastCode (g : Sign) (n : Nat) (ovs d0 dm : Word) (x : Ctx) (s : State) :
    (s.startProfile g n ovs d0 dm x).lastCode =
      s.lastCode := rfl
@[simp] theorem State.startProfile_cfg (g : Sign) (n : Nat) (ovs d0 dm : Word) (x : Ctx) (s : State) :
    (s.startProfile g n ovs d0 dm x).cfg =
      s.cfg := rfl
@[simp] theorem State.startProfile_out (g : Sign) (n : Nat) (ovs d0 dm : Word) (x : Ctx) (s : State) :
    (s.startProfile g n ovs d0 dm x).out =
      s.out ++ [.evDir g] := rfl
@[simp] theorem State.startProfile_peer (g : Sign) (n : Nat) (ovs d0 dm : Word) (x : Ctx) (s : State) :
    (s.startProfile g n ovs d0 dm x).peer =
      s.peer := rfl
@[simp] theorem State.startProfile_agenda (g : Sign) (n : Nat) (ovs d0 dm : Word) (x : Ctx) (s : State) :
    (s.startProfile g n ovs d0 dm x).agenda =
      s.agenda := rfl
@[simp] theorem State.startProfile_draws (g : Sign) (n : Nat) (ovs d0 dm : Word) (x : Ctx) (s : State) :
    (s.startProfile g n ovs d0 dm x).draws =
      s.draws := rfl

/-! `State.countStep` counts and publishes a step. -/

@[simp] theorem State.countStep_position (d : Int) (s : State) :
    (s.countStep d).position =
      if s.cfg.pubinc = true ∧ s.prof.ctx = .ctxMove then encS32 (s.position.toInt + d * signToInt s.prof.sign) else s.position := rfl
@[simp] theorem State.countStep_req (d : Int) (s : State) : (s.countStep d).req = s.req := rfl
@[simp] theorem State.countStep_prof (d : Int) (s : State) :
    (s.countStep d).prof =
      { s.prof with net := s.prof.net + d } := rfl
@[simp] theorem State.countStep_bus (d : Int) (s : State) : (s.countStep d).bus = s.bus := rfl
@[simp] theorem State.countStep_hom (d : Int) (s : State) : (s.countStep d).hom = s.hom := rfl
@[simp] theorem State.countStep_lines (d : Int) (s : State) : (s.countStep d).lines = s.lines := rfl
@[simp] theorem State.countStep_op (d : Int) (s : State) : (s.countStep d).op = s.op := rfl
@[simp] theorem State.countStep_seq (d : Int) (s : State) : (s.countStep d).seq = s.seq := rfl
@[simp] theorem State.countStep_hstate (d : Int) (s : State) : (s.countStep d).hstate = s.hstate := rfl
@[simp] theorem State.countStep_isMoving (d : Int) (s : State) : (s.countStep d).isMoving = s.isMoving := rfl
@[simp] theorem State.countStep_initialized (d : Int) (s : State) : (s.countStep d).initialized = s.initialized := rfl
@[simp] theorem State.countStep_cancelReq (d : Int) (s : State) : (s.countStep d).cancelReq = s.cancelReq := rfl
@[simp] theorem State.countStep_lastCode (d : Int) (s : State) : (s.countStep d).lastCode = s.lastCode := rfl
@[simp] theorem State.countStep_cfg (d : Int) (s : State) : (s.countStep d).cfg = s.cfg := rfl
@[simp] theorem State.countStep_out (d : Int) (s : State) : (s.countStep d).out = s.out := rfl
@[simp] theorem State.countStep_peer (d : Int) (s : State) : (s.countStep d).peer = s.peer := rfl
@[simp] theorem State.countStep_agenda (d : Int) (s : State) : (s.countStep d).agenda = s.agenda := rfl
@[simp] theorem State.countStep_draws (d : Int) (s : State) : (s.countStep d).draws = s.draws := rfl

/-! `State.chipSet` changes the chip alone. -/

@[simp] theorem State.chipSet_position (a : Addr) (v : Word) (s : State) :
    (s.chipSet a v).position =
      s.position := rfl
@[simp] theorem State.chipSet_req (a : Addr) (v : Word) (s : State) : (s.chipSet a v).req = s.req := rfl
@[simp] theorem State.chipSet_prof (a : Addr) (v : Word) (s : State) : (s.chipSet a v).prof = s.prof := rfl
@[simp] theorem State.chipSet_bus (a : Addr) (v : Word) (s : State) : (s.chipSet a v).bus = s.bus := rfl
@[simp] theorem State.chipSet_hom (a : Addr) (v : Word) (s : State) : (s.chipSet a v).hom = s.hom := rfl
@[simp] theorem State.chipSet_lines (a : Addr) (v : Word) (s : State) : (s.chipSet a v).lines = s.lines := rfl
@[simp] theorem State.chipSet_op (a : Addr) (v : Word) (s : State) : (s.chipSet a v).op = s.op := rfl
@[simp] theorem State.chipSet_seq (a : Addr) (v : Word) (s : State) : (s.chipSet a v).seq = s.seq := rfl
@[simp] theorem State.chipSet_hstate (a : Addr) (v : Word) (s : State) : (s.chipSet a v).hstate = s.hstate := rfl
@[simp] theorem State.chipSet_isMoving (a : Addr) (v : Word) (s : State) :
    (s.chipSet a v).isMoving =
      s.isMoving := rfl
@[simp] theorem State.chipSet_initialized (a : Addr) (v : Word) (s : State) :
    (s.chipSet a v).initialized =
      s.initialized := rfl
@[simp] theorem State.chipSet_cancelReq (a : Addr) (v : Word) (s : State) :
    (s.chipSet a v).cancelReq =
      s.cancelReq := rfl
@[simp] theorem State.chipSet_lastCode (a : Addr) (v : Word) (s : State) :
    (s.chipSet a v).lastCode =
      s.lastCode := rfl
@[simp] theorem State.chipSet_cfg (a : Addr) (v : Word) (s : State) : (s.chipSet a v).cfg = s.cfg := rfl
@[simp] theorem State.chipSet_out (a : Addr) (v : Word) (s : State) : (s.chipSet a v).out = s.out := rfl
@[simp] theorem State.chipSet_peer (a : Addr) (v : Word) (s : State) :
    (s.chipSet a v).peer =
      { s.peer with mem := s.peer.mem.writeReg a v } := rfl
@[simp] theorem State.chipSet_agenda (a : Addr) (v : Word) (s : State) : (s.chipSet a v).agenda = s.agenda := rfl
@[simp] theorem State.chipSet_draws (a : Addr) (v : Word) (s : State) : (s.chipSet a v).draws = s.draws := rfl

/-! `State.applyReset` keeps the world and resets the block. -/

@[simp] theorem State.applyReset_position (s : State) : (s.applyReset).position = State.reset.position := rfl
@[simp] theorem State.applyReset_req (s : State) : (s.applyReset).req = State.reset.req := rfl
@[simp] theorem State.applyReset_prof (s : State) : (s.applyReset).prof = State.reset.prof := rfl
@[simp] theorem State.applyReset_bus (s : State) : (s.applyReset).bus = State.reset.bus := rfl
@[simp] theorem State.applyReset_hom (s : State) : (s.applyReset).hom = State.reset.hom := rfl
@[simp] theorem State.applyReset_lines (s : State) : (s.applyReset).lines = State.reset.lines := rfl
@[simp] theorem State.applyReset_op (s : State) : (s.applyReset).op = State.reset.op := rfl
@[simp] theorem State.applyReset_seq (s : State) : (s.applyReset).seq = State.reset.seq := rfl
@[simp] theorem State.applyReset_hstate (s : State) : (s.applyReset).hstate = State.reset.hstate := rfl
@[simp] theorem State.applyReset_isMoving (s : State) : (s.applyReset).isMoving = State.reset.isMoving := rfl
@[simp] theorem State.applyReset_initialized (s : State) : (s.applyReset).initialized = State.reset.initialized := rfl
@[simp] theorem State.applyReset_cancelReq (s : State) : (s.applyReset).cancelReq = State.reset.cancelReq := rfl
@[simp] theorem State.applyReset_lastCode (s : State) : (s.applyReset).lastCode = State.reset.lastCode := rfl
@[simp] theorem State.applyReset_cfg (s : State) : (s.applyReset).cfg = State.reset.cfg := rfl
@[simp] theorem State.applyReset_out (s : State) : (s.applyReset).out = State.reset.out := rfl
@[simp] theorem State.applyReset_peer (s : State) : (s.applyReset).peer = s.peer := rfl
@[simp] theorem State.applyReset_agenda (s : State) : (s.applyReset).agenda = s.agenda := rfl
@[simp] theorem State.applyReset_draws (s : State) : (s.applyReset).draws = s.draws := rfl

end Sys2Proof.Machine
end

