-- ==== Sys2Proof/Laws/Ops.lean ====
section
/-! SUPPORT. One lemma per shared operation, saying once what it can do: when a packet is taken, a bus transaction,
the reference peer, and the numbers of bytes and words. -/

namespace Sys2Proof.Machine

/-- Two states with the same fields are the same. -/
theorem State.ext_fields {s t : State} (position : s.position = t.position) (req : s.req = t.req)
    (prof : s.prof = t.prof) (bus : s.bus = t.bus) (hom : s.hom = t.hom) (lines : s.lines = t.lines)
    (op : s.op = t.op) (seq : s.seq = t.seq) (hstate : s.hstate = t.hstate) (isMoving : s.isMoving = t.isMoving)
    (initialized : s.initialized = t.initialized) (cancelReq : s.cancelReq = t.cancelReq)
    (lastCode : s.lastCode = t.lastCode) (cfg : s.cfg = t.cfg) (out : s.out = t.out) (peer : s.peer = t.peer)
    (agenda : s.agenda = t.agenda) (draws : s.draws = t.draws) : s = t := by
  cases s
  cases t
  simp_all

/-! ### Taking packets -/

theorem State.whenIdle_idle (cmd : Byte) (run : State → State) (s : State) (h : s.seq = .idle) :
    s.whenIdle cmd run = run s := if_pos h

theorem State.whenIdle_busy (cmd : Byte) (run : State → State) (s : State) (h : s.seq ≠ .idle) :
    s.whenIdle cmd run = s.refuse cmd .busy := if_neg h

theorem State.whenInitialized_on (cmd : Byte) (run : State → State) (s : State) (h : s.initialized = true) :
    s.whenInitialized cmd run = run s := if_pos h

theorem State.whenInitialized_off (cmd : Byte) (run : State → State) (s : State) (h : s.initialized = false) :
    s.whenInitialized cmd run = s.refuse cmd .notInitialized := if_neg (by simp [h])

/-! ### Bus transactions -/

/-- The answer of the peer changes the peer and the count of free values, nothing else. -/
theorem State.peerAnswer_frame (tx : Bytes5) (s : State) :
    (s.peerAnswer tx).2 = { s with peer := (s.peerAnswer tx).2.peer, draws := (s.peerAnswer tx).2.draws } := by
  unfold State.peerAnswer
  split
  · rfl
  · unfold State.chipAnswer
    split <;> rfl
  · split
    · rfl
    · unfold State.chipAnswer
      split <;> rfl

/-- The answer of the peer keeps the chip's memory canonical. -/
theorem State.peerAnswer_wf (tx : Bytes5) (s : State) (h : s.peer.mem.wf = true) :
    (s.peerAnswer tx).2.peer.mem.wf = true := by
  have chip : ∀ s : State, s.peer.mem.wf = true → (s.chipAnswer tx).2.peer.mem.wf = true := by
    intro s h
    unfold State.chipAnswer
    split
    · exact Memory.wf_writeReg _ _ _ h
    · exact h
  unfold State.peerAnswer
  split
  · exact h
  · exact chip _ h
  · split
    · exact h
    · exact chip _ h

/-- The bus latches after a transaction. -/
def busAfter (b : BusLatch) : TxnOutcome → BusLatch
  | .ok rx => { b with rx := rx }
  | .fail => b

/-- The event of a transaction. -/
def txnEvent (tx : Bytes5) : TxnOutcome → Event
  | .ok rx => .evTxn tx rx
  | .fail => .evTxnFail tx

/-- Everything a transaction does, whatever the bus answers (`41_register_client.md` R120). -/
theorem State.transact_frame (tx : Bytes5) (s : State) :
    (s.transact tx).2 = { s with
      lines := { s.lines with csOn := false }, bus := busAfter s.bus (s.transact tx).1,
      out := s.out ++ [txnEvent tx (s.transact tx).1], peer := (s.transact tx).2.peer,
      draws := (s.transact tx).2.draws } := by
  have h := State.peerAnswer_frame tx (s.setCs true)
  simp only [State.transact]
  cases ho : ((s.setCs true).peerAnswer tx).1 with
  | ok rx =>
    simp only [State.latchReply, busAfter, txnEvent]
    rw [h]
    rfl
  | fail =>
    simp only [State.latchReply, busAfter, txnEvent]
    rw [h]
    rfl

/-- A transaction keeps the chip's memory canonical. -/
theorem State.transact_wf (tx : Bytes5) (s : State) (h : s.peer.mem.wf = true) :
    (s.transact tx).2.peer.mem.wf = true := by
  have hw := State.peerAnswer_wf tx (s.setCs true) h
  simp only [State.transact]
  cases ((s.setCs true).peerAnswer tx).1 <;> simpa [State.latchReply] using hw

/-- A scripted answer is the outcome, and leaves the rest of the script. -/
theorem State.transact_scripted (tx : Bytes5) (s : State) (o : TxnOutcome) (rest : List PeerEntry)
    (h : s.peer.script = .answer o :: rest) :
    s.transact tx = (o, { s with
      lines := { s.lines with csOn := false }, bus := busAfter s.bus o, out := s.out ++ [txnEvent tx o],
      peer := { s.peer with script := rest } }) := by
  have hs : (s.setCs true).peer.script = .answer o :: rest := h
  cases o <;> simp only [State.transact, State.peerAnswer, hs] <;> rfl

/-! ### Numbers -/

theorem byteOf_sum (w : Word) :
    (byteOf w 3).toNat * 2 ^ 24 + (byteOf w 2).toNat * 2 ^ 16 + (byteOf w 1).toNat * 2 ^ 8 + (byteOf w 0).toNat =
      w.toNat := by
  rw [← be32_toNat, be32_byteOf]

theorem toInt_emod (w : Word) : w.toInt % 2 ^ 32 = w.toNat := by
  have := w.isLt
  rw [BitVec.toInt_eq_toNat_cond]
  split <;> omega

/-- `enc_s32` is inverse to reading as two's complement inside 32 bits. -/
theorem toInt_encS32 (n : Int) (h : fitsS32 n = true) : (encS32 n).toInt = n := by
  simp only [fitsS32, decide_eq_true_eq] at h
  simp only [encS32, BitVec.toInt_ofInt]
  exact Int.bmod_eq_of_le (by omega) (by omega)

theorem encS32_toInt (w : Word) : encS32 w.toInt = w := by simp [encS32]

theorem fitsS32_toInt (w : Word) : fitsS32 w.toInt = true := by
  have h1 := w.toInt_lt
  have h2 := w.le_toInt
  simp only [fitsS32, decide_eq_true_eq]
  omega

end Sys2Proof.Machine
end

