-- ==== Sys2Proof/Laws/Actions.lean ====
section
/-! SUPPORT. What each action of the sequencer is, by the boundary it is taken at: the cases of the step actions with
their guards, and the frame each boundary sends. -/

namespace Sys2Proof.Machine

/-! ### The action of each boundary (`10_state.md` R20) -/

theorem act_idle (s : State) (h : s.seq = .idle) : act s = .next s := by
  simp only [act, State.pendingFrame, h, State.stepAction]

theorem act_fwd (s : State) (i : Nat) (h : s.seq = .fwd i) : act s = .next (s.fwdStep i) := by
  simp only [act, State.pendingFrame, h, State.stepAction]

theorem act_rev (s : State) (j : Nat) (h : s.seq = .rev j) : act s = .next (s.revStep j) := by
  simp only [act, State.pendingFrame, h, State.stepAction]

theorem act_seekStep (s : State) (h : s.seq = .seekStep) : act s = .next s.seekStep := by
  simp only [act, State.pendingFrame, h, State.stepAction]

theorem act_write (s : State) (h : s.seq = .wrT) :
    act s = .next ((s.transact (writeFrame s.bus.addr s.bus.wdata)).2.afterWrite
      (s.transact (writeFrame s.bus.addr s.bus.wdata)).1) := by
  simp only [act, State.pendingFrame, h, exec, execWframe]

theorem act_read (s : State) (h : s.seq = .rdT1 ∨ s.seq = .rdT2) :
    act s = .next ((s.transact (readFrame s.bus.addr)).2.afterRead (s.transact (readFrame s.bus.addr)).1) := by
  rcases h with h | h <;> simp only [act, State.pendingFrame, h, exec, execRframe]

theorem act_status (s : State) (h : s.seq = .seekT1 ∨ s.seq = .seekT2) :
    act s = .next ((s.transact (readFrame s.cfg.statusaddr)).2.afterRead
      (s.transact (readFrame s.cfg.statusaddr)).1) := by
  rcases h with h | h <;> simp only [act, State.pendingFrame, h, exec, execRframe]

/-! ### The forward step (`40_ramp_timer.md` R97) -/

theorem State.fwdStep_cancelled (i : Nat) (s : State) (h : s.cancelReq = true) : s.fwdStep i = s.cancelRun := by
  simp only [State.fwdStep, h, if_true]

theorem State.fwdStep_more (i : Nat) (s : State) (h : s.cancelReq = false) (hi : i + 1 < s.prof.total) :
    s.fwdStep i = { (s.pulse (s.prof.delay i)).countStep 1 with seq := .fwd (i + 1) } := by
  simp only [State.fwdStep, h, Bool.false_eq_true, if_false]
  exact if_pos hi

theorem State.fwdStep_turns (i : Nat) (s : State) (h : s.cancelReq = false) (hi : s.prof.total ≤ i + 1)
    (ho : 0 < s.prof.ovs.toNat) : s.fwdStep i = ((s.pulse (s.prof.delay i)).countStep 1).reverse := by
  simp only [State.fwdStep, h, Bool.false_eq_true, if_false]
  exact (if_neg (Nat.not_lt.2 hi)).trans (if_pos ho)

theorem State.fwdStep_last (i : Nat) (s : State) (h : s.cancelReq = false) (hi : s.prof.total ≤ i + 1)
    (ho : s.prof.ovs.toNat = 0) : s.fwdStep i = ((s.pulse (s.prof.delay i)).countStep 1).finish := by
  simp only [State.fwdStep, h, Bool.false_eq_true, if_false]
  exact (if_neg (Nat.not_lt.2 hi)).trans (if_neg (by simp [ho]))

/-! ### The reverse step (R98) -/

theorem State.revStep_cancelled (j : Nat) (s : State) (h : s.cancelReq = true) : s.revStep j = s.cancelRun := by
  simp only [State.revStep, h, if_true]

theorem State.revStep_more (j : Nat) (s : State) (h : s.cancelReq = false) (hj : j + 1 < s.prof.ovs.toNat) :
    s.revStep j = { (s.pulse (s.prof.dm.toNat : Rat)).countStep (-1) with seq := .rev (j + 1) } := by
  simp only [State.revStep, h, Bool.false_eq_true, if_false]
  exact if_pos hj

theorem State.revStep_last (j : Nat) (s : State) (h : s.cancelReq = false) (hj : s.prof.ovs.toNat ≤ j + 1) :
    s.revStep j = ((s.pulse (s.prof.dm.toNat : Rat)).countStep (-1)).finish := by
  simp only [State.revStep, h, Bool.false_eq_true, if_false]
  exact if_neg (Nat.not_lt.2 hj)

/-! ### The seek step (`42_homing.md` R143) -/

theorem State.seekStep_cancelled (s : State) (h : s.cancelReq = true) : s.seekStep = s.homeAbort .cancelled := by
  simp only [State.seekStep, h, if_true]

theorem State.seekStep_exhausted (s : State) (h : s.cancelReq = false)
    (hb : s.cfg.homebudget.toNat ≤ s.hom.s.toNat) : s.seekStep = s.homeAbort .homingTimeout := by
  simp only [State.seekStep, h, hb, Bool.false_eq_true, if_false, if_true]

theorem State.seekStep_pulses (s : State) (h : s.cancelReq = false) (hb : s.hom.s.toNat < s.cfg.homebudget.toNat) :
    s.seekStep =
      { s.pulse (s.cfg.seekdelay.toNat : Rat) with hom := { s.hom with s := s.hom.s + 1 }, seq := .seekT1 } := by
  simp only [State.seekStep, h, Nat.not_le.2 hb, Bool.false_eq_true, if_false]

/-! ### The end of a run (R99, R101) -/

theorem State.finish_move (s : State) (h : s.prof.ctx = .ctxMove) :
    s.finish = { s with position := s.req.target, isMoving := false }.complete .ok [] := by
  simp only [State.finish, h]

theorem State.finish_home (s : State) (h : s.prof.ctx = .ctxHome) : s.finish = s.homeZero := by
  simp only [State.finish, h]

theorem State.cancelRun_move (s : State) (h : s.prof.ctx = .ctxMove) :
    s.cancelRun = s.raise State.moveCleanUp .cancelled := by
  simp only [State.cancelRun, h]

theorem State.cancelRun_home (s : State) (h : s.prof.ctx = .ctxHome) : s.cancelRun = s.homeAbort .cancelled := by
  simp only [State.cancelRun, h]

/-! ### What follows a transaction -/

theorem State.takeStatus_confirms (w : Word) (s : State) (h : s.cfg.homen.toNat ≤ (s.debounced w).toNat) :
    s.takeStatus w =
      { s with bus := { s.bus with result := w }, hom := { s.hom with c := s.debounced w } }.confirm := by
  simp only [State.takeStatus]
  exact if_pos h

theorem State.takeStatus_continues (w : Word) (s : State) (h : (s.debounced w).toNat < s.cfg.homen.toNat) :
    s.takeStatus w =
      { s with
        bus := { s.bus with result := w }, hom := { s.hom with c := s.debounced w }, seq := .seekStep } := by
  simp only [State.takeStatus]
  exact if_neg (Nat.not_le.2 h)

/-! ### Configuration indices (`10_state.md` R30) -/

theorem cfgRegOf_field (k : Fin 8) :
    ∃ f, cfgRegOf (BitVec.ofNat 8 (0x20 + k.val)) = some (.field f) ∧ fieldIndex f = k := by
  match k with
  | 0 => exact ⟨.stallFlag, by decide, rfl⟩
  | 1 => exact ⟨.standstill, by decide, rfl⟩
  | 2 => exact ⟨.currentScale, by decide, rfl⟩
  | 3 => exact ⟨.openLoadA, by decide, rfl⟩
  | 4 => exact ⟨.openLoadB, by decide, rfl⟩
  | 5 => exact ⟨.tempWarning, by decide, rfl⟩
  | 6 => exact ⟨.tempShutdown, by decide, rfl⟩
  | 7 => exact ⟨.stallMagnitude, by decide, rfl⟩

/-- The value of a field as a number: the division form of the slice (`41_register_client.md` R129). -/
theorem fieldValue_toNat (e : FieldEntry) (w : Word) :
    (fieldValue e w).toNat = w.toNat / 2 ^ e.lsb.toNat % 2 ^ e.width.toNat := by
  simp only [fieldValue]
  split
  · next h => rw [h]; simp [Nat.mod_one]
  · simp only [BitVec.toNat_ofNat]
    refine Nat.mod_eq_of_lt (Nat.lt_of_le_of_lt (Nat.mod_le _ _) ?_)
    exact Nat.lt_of_le_of_lt (Nat.div_le_self _ _) w.isLt

end Sys2Proof.Machine
end

