-- ==== Sys2Proof/Laws/Invariant.lean ====
section
/-! SUPPORT. How the invariant is carried over the three common shapes of an action: one that touches none of its
fields, one that ends the operation in progress, and one that leaves the block idle and changes the configuration. -/

namespace Sys2Proof.Machine

/-- An action that changes none of the fields the invariant speaks of keeps it. -/
theorem State.Inv.quiet {s t : State} (h : s.Inv) (position : t.position = s.position) (req : t.req = s.req)
    (prof : t.prof = s.prof) (hom : t.hom = s.hom) (lines : t.lines = s.lines) (op : t.op = s.op)
    (seq : t.seq = s.seq) (hstate : t.hstate = s.hstate) (isMoving : t.isMoving = s.isMoving)
    (initialized : t.initialized = s.initialized) (cancelReq : t.cancelReq = s.cancelReq)
    (lastCode : t.lastCode = s.lastCode) (cfg : t.cfg = s.cfg) (mem : t.peer.mem.wf = true) : t.Inv := by
  cases s
  cases t
  simp only at position req prof hom lines op seq hstate isMoving initialized cancelReq lastCode cfg
  subst position req prof hom lines op seq hstate isMoving initialized cancelReq lastCode cfg
  exact ⟨h.stepLow, h.csLow, h.enabled, h.busyInit, h.seqFits, h.moving, h.cancel, h.hstate, h.lastCode, h.fields,
    mem, h.run, fun ho => ⟨(h.move ho).request, (h.move ho).target, (h.move ho).inside, (h.move ho).position⟩, h.home⟩

/-- A state at `Idle` with no operation keeps the invariant when its own fields fit: nothing is left of the
latches. -/
theorem State.Inv.atIdle {t : State} (op : t.op = .opNone) (seq : t.seq = .idle) (isMoving : t.isMoving = false)
    (cancelReq : t.cancelReq = false) (hstate : t.hstate = .hIdle ∨ t.hstate = .hZeroed)
    (lastCode : endCode t.lastCode) (stepLow : t.lines.stepLine = false) (csLow : t.lines.csOn = false)
    (enabled : t.lines.enableOn = t.initialized) (fields : ∀ k : Fin 8, fieldLegal t.cfg.fields[k] = true)
    (mem : t.peer.mem.wf = true) : t.Inv where
  stepLow := stepLow
  csLow := csLow
  enabled := enabled
  busyInit := fun h => absurd op h
  seqFits := by simp [Machine.seqFits, seq, op]
  moving := by simp [isMoving, op]
  cancel := by simp [cancelReq]
  hstate := by simpa [hstateFits, op] using hstate
  lastCode := lastCode
  fields := fields
  mem := mem
  run := by simp [RunInv, seq]
  move := by simp [op]
  home := by simp [op]

/-- An action that ends the operation in progress, and leaves the enable line, the initialisation and the
configuration as they were, keeps the invariant. -/
theorem State.Inv.ended {s t : State} (h : s.Inv) (op : t.op = .opNone) (seq : t.seq = .idle)
    (isMoving : t.isMoving = false) (cancelReq : t.cancelReq = false)
    (hstate : t.hstate = .hIdle ∨ t.hstate = .hZeroed) (lastCode : endCode t.lastCode)
    (stepLow : t.lines.stepLine = false) (csLow : t.lines.csOn = false)
    (enableOn : t.lines.enableOn = s.lines.enableOn) (initialized : t.initialized = s.initialized)
    (cfg : t.cfg = s.cfg) (mem : t.peer.mem.wf = true) : t.Inv :=
  .atIdle op seq isMoving cancelReq hstate lastCode stepLow csLow (by rw [enableOn, initialized, h.enabled])
    (by rw [cfg]; exact h.fields) mem

/-- At `Idle` no operation is in progress (`10_state.md` R20), and only there. -/
theorem State.Inv.idle_iff {s : State} (h : s.Inv) : s.seq = .idle ↔ s.op = .opNone := by
  have hs := h.seqFits
  cases hq : s.seq <;> simp_all [Machine.seqFits] <;> rcases hs with hs | hs <;> simp [hs]

end Sys2Proof.Machine
end

