-- ==== Sys2Proof/Laws/PerInstr.lean ====
section
/-! SUPPORT. Per-instruction lemmas. Family `RoundTrip`: at the instruction's own port, its encoding decodes to it
(`30_encoding.md` R61, R62, R72, R73). -/

namespace Sys2Proof.Laws.RoundTrip

/-- Decoding the encoding of `i` at its port gives `i`. -/
def Statement (i : Instr) : Prop := decodeAt i.port (encode i) = .instr i

theorem init : Statement .init := by unfold Statement; decide

theorem move (t d0 dm ovs : Word) : Statement (.move t d0 dm ovs) := by
  have h : opcodeOf 0x02 = some .move := by decide
  simp only [Statement, Instr.port, decodeAt, encode, decodeCommand, h, decodeOperands, bytesBe32, decodeMove,
    List.cons_append, List.nil_append, be32_byteOf]

theorem home (dir : Sign) (pred : Pred) : Statement (.home dir pred) := by
  unfold Statement
  cases dir <;> cases pred <;> decide

theorem wreg (a : Addr) (v : Word) : Statement (.wreg a v) := by
  have h : opcodeOf 0x04 = some .wreg := by decide
  simp only [Statement, Instr.port, decodeAt, encode, decodeCommand, h, decodeOperands, bytesBe32, decodeWreg,
    header_read a, be32_byteOf]
  simp

theorem rreg (a : Addr) : Statement (.rreg a) := by
  have h : opcodeOf 0x05 = some .rreg := by decide
  simp only [Statement, Instr.port, decodeAt, encode, decodeCommand, h, decodeOperands, decodeRreg, header_read a]
  simp

theorem decode (w : Word) : Statement (.decode w) := by
  have h : opcodeOf 0x06 = some .decode := by decide
  simp only [Statement, Instr.port, decodeAt, encode, decodeCommand, h, decodeOperands, bytesBe32, decodeDecode,
    be32_byteOf]

theorem getpos : Statement .getpos := by unfold Statement; decide

theorem ismov : Statement .ismov := by unfold Statement; decide

theorem cancel : Statement .cancel := by unfold Statement; decide

theorem setcfg (x : Byte) (v : Word) : Statement (.setcfg x v) := by
  have h : opcodeOf 0x0A = some .setcfg := by decide
  simp only [Statement, Instr.port, decodeAt, encode, decodeCommand, h, decodeOperands, bytesBe32, decodeSetcfg,
    be32_byteOf]

theorem getcfg (x : Byte) : Statement (.getcfg x) := by
  have h : opcodeOf 0x0B = some .getcfg := by decide
  simp only [Statement, Instr.port, decodeAt, encode, decodeCommand, h, decodeOperands, decodeGetcfg]

theorem wframe (a : Addr) (v : Word) : Statement (.wframe a v) := by
  simp only [Statement, Instr.port, decodeAt, encode, writeFrame, frameOf, Bytes5.toList, decodeFrame,
    header_write a, be32_byteOf]
  simp

theorem rframe (a : Addr) : Statement (.rframe a) := by
  simp only [Statement, Instr.port, decodeAt, encode, readFrame, frameOf, Bytes5.toList, decodeFrame,
    header_read a, be32_byteOf]
  simp

end Sys2Proof.Laws.RoundTrip
end

