-- ==== Sys2Proof/Laws/Run.lean ====
section
/-! SUPPORT. Runs of several steps, one step at a time, and what one step does with each kind of input. -/

namespace Sys2Proof.Machine

theorem run_of_next (M : Host.Core) (k : Nat) (s t : M.State) (h : M.step s = .next t) :
    M.run (k + 1) s = M.run k t := by
  simp only [Host.Core.run, h]

theorem run_of_run (M : Host.Core) (j k : Nat) (s t : M.State) (h : M.run j s = .next t) :
    M.run (j + k) s = M.run k t := by
  induction j generalizing s with
  | zero =>
    simp only [Host.Core.run] at h
    injection h with hst
    rw [hst, Nat.zero_add]
  | succ j ih =>
    rw [Nat.add_right_comm]
    simp only [Host.Core.run] at h ⊢
    split at h
    · next u hu => exact ih u h
    · cases h
    · cases h

theorem run_zero (s : State) : Host.Core.run Sys2Proof.core 0 s = .next s := rfl

theorem run_succ {s t : State} (k : Nat) (h : step s = .next t) :
    Host.Core.run Sys2Proof.core (k + 1) s = Host.Core.run Sys2Proof.core k t :=
  run_of_next Sys2Proof.core k s t h

theorem run_add {s t : State} (j k : Nat) (h : Host.Core.run Sys2Proof.core j s = .next t) :
    Host.Core.run Sys2Proof.core (j + k) s = Host.Core.run Sys2Proof.core k t :=
  run_of_run Sys2Proof.core j k s t h

theorem step_nil (s : State) (h : s.agenda = []) : step s = act s := by simp only [step, h]

theorem step_act (s : State) (rest : List Input) (h : s.agenda = .act :: rest) :
    step s = act { s with agenda := rest } := by simp only [step, h]

theorem step_chipSet (s : State) (a : Addr) (v : Word) (rest : List Input) (h : s.agenda = .chipSet a v :: rest) :
    step s = .next ({ s with agenda := rest }.chipSet a v) := by simp only [step, h]

/-- A packet that is the encoding of a command runs that command. -/
theorem step_packet (s : State) (i : Instr) (rest : List Input) (h : s.agenda = .packet (encode i) :: rest)
    (hp : i.port = .command) : step s = exec i { s with agenda := rest } := by
  have hd : decodeAt i.port (encode i) = .instr i := by
    cases i
    · exact Laws.RoundTrip.init
    · exact Laws.RoundTrip.move ..
    · exact Laws.RoundTrip.home ..
    · exact Laws.RoundTrip.wreg ..
    · exact Laws.RoundTrip.rreg ..
    · exact Laws.RoundTrip.decode ..
    · exact Laws.RoundTrip.getpos
    · exact Laws.RoundTrip.ismov
    · exact Laws.RoundTrip.cancel
    · exact Laws.RoundTrip.setcfg ..
    · exact Laws.RoundTrip.getcfg ..
    · exact Laws.RoundTrip.wframe ..
    · exact Laws.RoundTrip.rframe ..
  rw [hp] at hd
  have hd' : decodeCommand (encode i) = .instr i := hd
  simp only [step, h, takePacket, hd']

/-- A write frame to the reference peer (`20_memory.md` R48). -/
theorem State.transact_write_reference (s : State) (a : Addr) (v : Word) (h : s.peer.script = [])
    (hm : s.peer.mode = .reference) :
    s.transact (writeFrame a v) = (.ok (frameOf (Config.freeByte s.draws) s.peer.staged), { s with
      lines := { s.lines with csOn := false },
      bus := { s.bus with rx := frameOf (Config.freeByte s.draws) s.peer.staged },
      out := s.out ++ [.evTxn (writeFrame a v) (frameOf (Config.freeByte s.draws) s.peer.staged)],
      peer := { s.peer with mem := s.peer.mem.writeReg a v, staged := Config.freeWord s.draws },
      draws := s.draws + 1 }) := by
  have hh := header_write a
  simp only [State.transact, State.peerAnswer, State.setCs_peer, h, hm, State.chipAnswer, writeFrame, frameOf, hh,
    if_true, State.latchReply, Bytes5.payload, be32_byteOf]
  rfl

/-- A read frame to the reference peer (`20_memory.md` R48). -/
theorem State.transact_read_reference (s : State) (a : Addr) (h : s.peer.script = [])
    (hm : s.peer.mode = .reference) :
    s.transact (readFrame a) = (.ok (frameOf (Config.freeByte s.draws) s.peer.staged), { s with
      lines := { s.lines with csOn := false },
      bus := { s.bus with rx := frameOf (Config.freeByte s.draws) s.peer.staged },
      out := s.out ++ [.evTxn (readFrame a) (frameOf (Config.freeByte s.draws) s.peer.staged)],
      peer := { s.peer with staged := s.peer.mem.readReg a }, draws := s.draws + 1 }) := by
  have hh := header_read a
  simp only [State.transact, State.peerAnswer, State.setCs_peer, h, hm, State.chipAnswer, readFrame, frameOf, hh,
    Bool.false_eq_true, if_false, State.latchReply]
  rfl

end Sys2Proof.Machine
end

