-- ==== Sys2Proof/Machine/HostLibrary.lean ====
section
/-! DEFINITION. The host's side of the interface: the pseudo-commands a host library may offer, each with its
expansion into commands (`30_encoding.md` R78; none is decoded by the block), and the spelling of a command
(R77). -/

namespace Sys2Proof.Machine

/-- The three non-target members of MotionRequest that R78 takes `speedProfile` to hold. -/
structure SpeedProfile where
  initialDelay : Word
  minDelay     : Word
  overshoot    : Word
  deriving DecidableEq, Repr

/-- `moveTo(target, speedProfile)`. -/
def pseudoMoveTo (target : Word) (p : SpeedProfile) : List Instr :=
  [.move target p.initialDelay p.minDelay p.overshoot]

/-- The second command of `MOVEREL k, d0, dm, ovs`, after `GETPOS` gave `p`; none when `p + k` is no position. -/
def pseudoMoveRel (p : Word) (k : Int) (d0 dm ovs : Word) : Option Instr :=
  if fitsS32 (p.toInt + k) then some (.move (encS32 (p.toInt + k)) d0 dm ovs) else none

/-- `initialize(pins, busConfig)`: an optional `SETCFG PINCFG`, then `INIT`. -/
def pseudoInit (pincfg : Option Word) : List Instr :=
  match pincfg with
  | some v => [.setcfg 0x00 v, .init]
  | none => [.init]

/-- `STATUS?`: `GETCFG STATUSADDR` giving `a`, `RREG a` giving `w`, `DECODE w`. -/
def pseudoStatus (a : Addr) (w : Word) : List Instr := [.getcfg 0x17, .rreg a, .decode w]

/-- The mnemonic of a command or frame (`30_encoding.md` R61, R62, R71). -/
def mnemonicOf : Instr → String
  | .init => "INIT"
  | .move _ _ _ _ => "MOVE"
  | .home _ _ => "HOME"
  | .wreg _ _ => "WREG"
  | .rreg _ => "RREG"
  | .decode _ => "DECODE"
  | .getpos => "GETPOS"
  | .ismov => "ISMOV"
  | .cancel => "CANCEL"
  | .setcfg _ _ => "SETCFG"
  | .getcfg _ => "GETCFG"
  | .wframe _ _ => "WFRAME"
  | .rframe _ => "RFRAME"

/-- The operands as R77 writes them: decimal numbers, signed where the operand is signed. -/
def operandsOf : Instr → List String
  | .move t d0 dm ovs => [toString t.toInt, toString d0.toNat, toString dm.toNat, toString ovs.toNat]
  | .home dir pred =>
    [match dir with | .plus => "+" | .minus => "-",
      match pred with | .predFlag => "FLAG" | .predAnalog => "ANALOG"]
  | .wreg a v => [toString a.toNat, toString v.toNat]
  | .rreg a => [toString a.toNat]
  | .decode w => [toString w.toNat]
  | .setcfg x v => [toString x.toNat, toString v.toNat]
  | .getcfg x => [toString x.toNat]
  | .wframe a v => [toString a.toNat, toString v.toNat]
  | .rframe a => [toString a.toNat]
  | .init => []
  | .getpos => []
  | .ismov => []
  | .cancel => []

/-- One command as one line of text (R77). -/
def spellingOf (i : Instr) : String :=
  match operandsOf i with
  | [] => mnemonicOf i
  | ops => mnemonicOf i ++ " " ++ ", ".intercalate ops

end Sys2Proof.Machine
end

