-- ==== Sys2Proof/Tests/Slice0.lean ====
section
/-! SUPPORT. The model's own tests. Expected values are those of `spec/95_test_vectors.md` (the vector's number is
in each docstring) or are written out by hand from the rule named; the parameters are that file's: `DESC_TMC`,
`REVPAUSE_RESET = 0`. At the end, for every statement with hypotheses, states and operands that meet them. -/

namespace Sys2Proof.Tests

open Sys2Proof Sys2Proof.Machine

/-! ### Small states -/

/-- After reset, with the test parameters. -/
def tmc : State := State.resetWith Config.descTmc 0

/-- "Fresh": after reset and INIT, the trace cleared. -/
def fresh : State :=
  { tmc with initialized := true, lines := { tmc.lines with enableOn := true } }

/-- Fresh, at a position. -/
def freshAt (p : Word) : State := { fresh with position := p }

/-- The state an instruction leaves. -/
def after (i : Instr) (s : State) : State :=
  match exec i s with
  | .next t => t
  | _ => tmc

/-- The state one step leaves. -/
def stepped (s : State) : State :=
  match step s with
  | .next t => t
  | _ => tmc

/-- What an instruction adds to an empty trace. -/
def trace (i : Instr) (s : State) : List Event := (after i { s with out := [] }).out

/-- What one step adds to an empty trace. -/
def stepTrace (s : State) : List Event := (stepped { s with out := [] }).out

/-- The MOVE of V8 in progress, at `Fwd(0)`. -/
def moving : State := after (.move 4 1000 400 2) fresh

/-- The MOVE of V8 with `n` forward steps made. -/
def movingAt (n : Nat) : State := { moving with seq := .fwd n, prof := { moving.prof with net := n } }

/-- The MOVE of V8 with all forward steps and `n` reverse steps made. -/
def reversing (n : Nat) : State :=
  { moving with
    seq := .rev n, prof := { moving.prof with net := 6 - n }, lines := { moving.lines with dirSign := .minus } }

/-- The set-up "H" of `95_test_vectors.md` section 2.3, at a position. -/
def readyAt (p : Word) : State :=
  { freshAt p with
    cfg := { fresh.cfg with
      seekdelay := 500, homebudget := 1000, homeoffset := 4, homen := 1, boidelay := 1000, bomdelay := 300 } }

/-- `HOME -, FLAG` in progress from 12, at `SeekStep`. -/
def seeking : State := after (.home .minus .predFlag) (readyAt 12)

/-- The same with one seek step made, at a boundary of its status read, with the bus's next answers given. -/
def readingAt (q : Seq) (answers : List PeerEntry) : State :=
  { seeking with seq := q, hom := { seeking.hom with s := 1 }, peer := { seeking.peer with script := answers } }

/-- The same in the back-off, with `n` of its steps made. -/
def backingOff (n : Nat) : State :=
  { seeking with
    seq := .fwd n, hstate := .hConfirmed, lines := { seeking.lines with dirSign := .plus },
    hom := { seeking.hom with s := 1, c := 1 },
    prof := ⟨.plus, 4, 4, 2, 1000, 300, 0, 12, n, .ctxHome⟩ }

/-- Fresh with the bus's next answers given. -/
def withAnswers (answers : List PeerEntry) : State := { fresh with peer := { fresh.peer with script := answers } }

/-- A status word with the stall flag set, as the second reply of a read. -/
def stallReply : Bytes5 := ⟨0x00, 0x01, 0x00, 0x00, 0x00⟩

/-- An all-zero reply. -/
def zeroReply : Bytes5 := ⟨0x00, 0x00, 0x00, 0x00, 0x00⟩

/-! ### Well-formedness: a term each check refuses (V37, R64, R167) -/

theorem test_wf_opcode :
    opcodeAssigned [] = false ∧ opcodeAssigned [0x00] = false ∧ opcodeAssigned [0x0C] = false ∧
      opcodeAssigned [0xFF] = false ∧ opcodeAssigned [0x0B] = true := by decide

theorem test_wf_length :
    lengthMatches [0x01, 0x00] = false ∧ lengthMatches [0x02, 0x00, 0x00, 0x00, 0x05] = false ∧
      lengthMatches [0x03] = false ∧ lengthMatches [0x05] = false ∧ lengthMatches [0x06, 0x00, 0x00, 0x00] = false ∧
      lengthMatches [0x07, 0x00] = false ∧ lengthMatches [0x0A, 0x00, 0x00, 0x00, 0x00] = false ∧
      lengthMatches [0x0B] = false := by decide

theorem test_wf_reserved :
    reservedBitsClear [0x03, 0x04] = false ∧ reservedBitsClear [0x03, 0x80] = false ∧
      reservedBitsClear [0x04, 0x80, 0x00, 0x00, 0x00, 0x00] = false ∧ reservedBitsClear [0x05, 0xED] = false ∧
      reservedBitsClear [0x03, 0x03] = true ∧ reservedBitsClear [0x05, 0x7F] = true := by decide

theorem test_wf_packet :
    packetLegal [] = false ∧ packetLegal [0x0C] = false ∧ packetLegal [0x07, 0x00] = false ∧
      packetLegal [0x03, 0x04] = false ∧ packetLegal [0x04, 0x80, 0x00, 0x00, 0x00, 0x00] = false ∧
      packetLegal [0x03, 0x03] = true := by decide

theorem test_wf_frame :
    frameLegal [0x6D, 0x00, 0x00, 0x00, 0x01] = false ∧ frameLegal [0x6D, 0x00, 0x00, 0x00] = false ∧
      frameLegal [0x6D, 0x00, 0x00, 0x00, 0x00] = true ∧ frameLegal [0xED, 0x00, 0x00, 0x00, 0x01] = true := by decide

theorem test_wf_field :
    fieldLegal ⟨24, 10⟩ = false ∧ fieldLegal ⟨0, 33⟩ = false ∧ fieldLegal ⟨1, 32⟩ = false ∧
      fieldLegal ⟨0, 32⟩ = true ∧ fieldLegal ⟨31, 1⟩ = true := by decide

/-! ### Decoding: words written out from R61, R62, R72; refusals by name from R74 -/

theorem test_decode_no_operands :
    decodeCommand [0x01] = .instr .init ∧ decodeCommand [0x07] = .instr .getpos ∧
      decodeCommand [0x08] = .instr .ismov ∧ decodeCommand [0x09] = .instr .cancel := by decide

/-- V8 and V7. -/
theorem test_decode_move :
    decodeCommand [0x02, 0x00, 0x00, 0x00, 0x04, 0x00, 0x00, 0x03, 0xE8, 0x00, 0x00, 0x01, 0x90, 0x00, 0x00, 0x00, 0x02]
        = .instr (.move 4 1000 400 2) ∧
      decodeCommand
          [0x02, 0xFF, 0xFF, 0xFF, 0xFC, 0x00, 0x00, 0x03, 0x84, 0x00, 0x00, 0x01, 0x2C, 0x00, 0x00, 0x00, 0x00]
        = .instr (.move (-4) 900 300 0) := by decide

/-- Section 2.3: the four HOME packets. -/
theorem test_decode_home :
    decodeCommand [0x03, 0x00] = .instr (.home .minus .predFlag) ∧
      decodeCommand [0x03, 0x01] = .instr (.home .plus .predFlag) ∧
      decodeCommand [0x03, 0x02] = .instr (.home .minus .predAnalog) ∧
      decodeCommand [0x03, 0x03] = .instr (.home .plus .predAnalog) := by decide

/-- V17, V21. -/
theorem test_decode_bus :
    decodeCommand [0x04, 0x6D, 0x12, 0x34, 0x56, 0x78] = .instr (.wreg 0x6D 0x12345678) ∧
      decodeCommand [0x05, 0x6D] = .instr (.rreg 0x6D) ∧
      decodeCommand [0x06, 0x81, 0x13, 0x01, 0x55] = .instr (.decode 0x81130155) := by decide

/-- Section 2.3, V35. -/
theorem test_decode_cfg :
    decodeCommand [0x0A, 0x11, 0x00, 0x00, 0x03, 0xE8] = .instr (.setcfg 0x11 1000) ∧
      decodeCommand [0x0B, 0x7F] = .instr (.getcfg 0x7F) := by decide

/-- V16. -/
theorem test_decode_frames :
    decodeFrame [0xED, 0x12, 0x34, 0x56, 0x78] = .instr (.wframe 0x6D 0x12345678) ∧
      decodeFrame [0x80, 0xFF, 0xFF, 0xFF, 0xFF] = .instr (.wframe 0x00 0xFFFFFFFF) ∧
      decodeFrame [0xFF, 0x00, 0x00, 0x00, 0x00] = .instr (.wframe 0x7F 0) ∧
      decodeFrame [0x6D, 0x00, 0x00, 0x00, 0x00] = .instr (.rframe 0x6D) ∧
      decodeFrame [0x7F, 0x00, 0x00, 0x00, 0x00] = .instr (.rframe 0x7F) := by decide

theorem test_decode_refuses_by_name :
    decodeCommand [] = .illegal .emptyPacket ∧ decodeCommand [0x0C] = .illegal .unassignedOpcode ∧
      decodeCommand [0x01, 0x00] = .illegal .wrongLength ∧ decodeCommand [0x03, 0x80] = .illegal .reservedFlagBits ∧
      decodeCommand [0x05, 0xED] = .illegal .addressTooLarge ∧
      decodeFrame [0x6D, 0x00, 0x00, 0x00, 0x01] = .illegal .payloadOnRead := by decide

/-- The table numbers a packet big-endian; five bytes that are no `DECODE` are a frame, or nothing (R64). -/
theorem test_decode_table_words :
    decodeTableWord 8 0x01 = some .init ∧ decodeTableWord 16 0x056D = some (.rreg 0x6D) ∧
      decodeTableWord 40 0x0681130155 = some (.decode 0x81130155) ∧
      decodeTableWord 48 0x0A1700000080 = some (.setcfg 0x17 0x80) ∧
      decodeTableWord 136 0x0200000004000003E80000019000000002 = some (.move 4 1000 400 2) ∧
      decodeTableWord 40 0x6D00000000 = some (.rframe 0x6D) ∧ decodeTableWord 40 0x6D00000001 = none ∧
      decodeTableWord 40 0x0200000000 = some (.rframe 2) ∧ decodeTableWord 40 0x0400000000 = some (.rframe 4) ∧
      decodeTableWord 40 0x0A00000000 = some (.rframe 10) ∧ decodeTableWord 40 0x0400000001 = none := by decide

/-- V16, V8. -/
theorem test_encode :
    encode (.wframe 0x10 1) = [0x90, 0x00, 0x00, 0x00, 0x01] ∧ encode (.home .minus .predAnalog) = [0x03, 0x02] ∧
      encode (.move (-3) 800 200 1) =
        [0x02, 0xFF, 0xFF, 0xFF, 0xFD, 0x00, 0x00, 0x03, 0x20, 0x00, 0x00, 0x00, 0xC8, 0x00, 0x00, 0x00, 0x01] := by
  decide

/-! ### The instructions, one step each -/

/-- V35: `INIT` after reset; STATUS is `0x00000002`. -/
theorem test_init : trace .init tmc = [.evEnable true, .evResp 0x01 .ok []] ∧ (after .init tmc).status = 0x00000002 := by
  decide

/-- V36: `INIT` during a MOVE. -/
theorem test_init_busy : trace .init moving = [.evResp 0x01 .busy []] := by decide

/-- V7: `MOVE -4, 900, 300, 0` from 0. -/
theorem test_move_starts :
    trace (.move (-4) 900 300 0) fresh = [.evDir .minus] ∧
      (after (.move (-4) 900 300 0) fresh).prof = ⟨.minus, 4, 4, 2, 900, 300, 0, 0, 0, .ctxMove⟩ ∧
      (after (.move (-4) 900 300 0) fresh).status = 0x00000103 := by decide

/-- V12: the range test at both ends of 32 bits. -/
theorem test_move_range :
    trace (.move 2147483647 1000 300 1) (freshAt 2147483640) = [.evResp 0x02 .configurationError []] ∧
      trace (.move 2147483647 1000 300 0) (freshAt 2147483640) = [.evDir .plus] ∧
      trace (.move (-2147483648) 1000 300 1) (freshAt (-2147483640)) = [.evResp 0x02 .configurationError []] := by
  decide

/-- V26: the start of `HOME -, FLAG`; STATUS is `0x00000213`. -/
theorem test_home_starts :
    trace (.home .minus .predFlag) (readyAt 9) = [.evDir .minus] ∧
      (after (.home .minus .predFlag) (readyAt 9)).status = 0x00000213 ∧
      (after (.home .minus .predFlag) (readyAt 9)).position = 9 := by decide

/-- V34: after `SETCFG 0x20, 0` the flag predicate is refused and the analog one is not. -/
theorem test_home_absent_field :
    trace (.home .minus .predFlag) (after (.setcfg 0x20 0) (readyAt 0)) = [.evResp 0x03 .configurationError []] ∧
      trace (.home .minus .predAnalog) (after (.setcfg 0x20 0) (readyAt 0)) = [.evDir .minus] := by decide

/-- R126 action 1, V35. -/
theorem test_wreg :
    (after (.wreg 0x6D 0x12345678) fresh).bus = ⟨0x6D, 0x12345678, zeroReply, 0⟩ ∧
      (after (.wreg 0x6D 0x12345678) fresh).seq = .wrT ∧
      trace (.wreg 0x6D 0) tmc = [.evResp 0x04 .notInitialized []] := by decide

/-- V23: during RREG STATUS is `0x00000402`, and another RREG is `Busy`. -/
theorem test_rreg :
    (after (.rreg 0x6F) fresh).status = 0x00000402 ∧
      trace (.rreg 0x01) (after (.rreg 0x6F) fresh) = [.evResp 0x05 .busy []] := by decide

/-- V21. -/
theorem test_decode_command :
    trace (.decode 0x81130155) tmc =
      [.evResp 0x06 .ok
        [0, 0, 0, 1, 0, 0, 0, 1, 0, 0, 0, 0x13, 0, 0, 0, 0, 0, 0, 0, 0, 0, 0, 0, 0, 0, 0, 0, 0, 0, 0, 1, 0x55]] := by
  decide

/-- V22, the fields set by its four SETCFG: the whole word, an absent field, bit 31, LSB 20 with WIDTH 8. -/
theorem test_decode_corners :
    fieldValue (fieldOfWord 0x00002000) 0xDEADBEEF = 0xDEADBEEF ∧ fieldValue (fieldOfWord 0) 0xDEADBEEF = 0 ∧
      fieldValue (fieldOfWord 0x0000011F) 0xDEADBEEF = 1 ∧
      fieldValue (fieldOfWord 0x00000814) 0xDEADBEEF = 0xEA := by decide

/-- V38. -/
theorem test_getpos :
    trace .getpos (freshAt (-3)) = [.evResp 0x07 .ok [0xFF, 0xFF, 0xFF, 0xFD]] ∧
      trace .getpos (freshAt (-2147483648)) = [.evResp 0x07 .ok [0x80, 0x00, 0x00, 0x00]] := by decide

/-- V36 and V23. -/
theorem test_ismov :
    trace .ismov (movingAt 1) = [.evResp 0x08 .ok [0x01]] ∧
      trace .ismov (after (.rreg 0x6F) fresh) = [.evResp 0x08 .ok [0x00]] := by decide

/-- V14: STATUS goes from `0x00000103` to `0x00000107`. V23: no effect during RREG. -/
theorem test_cancel :
    moving.status = 0x00000103 ∧ (after .cancel moving).status = 0x00000107 ∧
      (after .cancel (after (.rreg 0x6F) fresh)).status = 0x00000402 := by decide

/-- V39: PINCFG keeps bits 2:0; STATUSADDR refuses `0x80`; STATUS and index `0x18` cannot be written. -/
theorem test_setcfg :
    (after (.setcfg 0x00 0xFFFFFFFF) tmc).cfg.pincfg = 7 ∧
      trace (.setcfg 0x17 0x80) tmc = [.evResp 0x0A .configurationError []] ∧
      (after (.setcfg 0x17 0x7F) tmc).cfg.statusaddr = 0x7F ∧
      trace (.setcfg 0x7F 0) tmc = [.evResp 0x0A .configurationError []] ∧
      trace (.setcfg 0x18 0) tmc = [.evResp 0x0A .configurationError []] := by decide

/-- V39: the bound on a field entry, and its ignored bits. -/
theorem test_setcfg_field :
    trace (.setcfg 0x22 0x00000A18) tmc = [.evResp 0x0A .configurationError []] ∧
      trace (.setcfg 0x22 0x00002001) tmc = [.evResp 0x0A .configurationError []] ∧
      (after (.setcfg 0x22 0x00002000) tmc).cfg.fields[2] = ⟨0, 32⟩ ∧
      (after (.setcfg 0x22 0xFFFFC0E0) tmc).cfg.fields[2] = ⟨0, 0⟩ := by decide

/-- V35: HOMEOFFSET, HOMEN, STATUSADDR, FIELD[2], FIELD[7], and an unassigned index. -/
theorem test_getcfg :
    trace (.getcfg 0x12) tmc = [.evResp 0x0B .ok [0, 0, 0, 0x64]] ∧
      trace (.getcfg 0x17) tmc = [.evResp 0x0B .ok [0, 0, 0, 0x6F]] ∧
      trace (.getcfg 0x22) tmc = [.evResp 0x0B .ok [0, 0, 0x05, 0x10]] ∧
      trace (.getcfg 0x27) tmc = [.evResp 0x0B .ok [0, 0, 0x0A, 0]] ∧
      trace (.getcfg 0x28) tmc = [.evResp 0x0B .configurationError []] := by decide

/-- V31, V14, V30: STATUS while seeking with a cancel pending, and the last codes. -/
theorem test_getcfg_status :
    trace (.getcfg 0x7F) (after .cancel seeking) = [.evResp 0x0B .ok [0, 0, 0x02, 0x17]] ∧
      trace (.getcfg 0x7F) { fresh with lastCode := .cancelled } = [.evResp 0x0B .ok [0, 0x05, 0, 0x02]] ∧
      trace (.getcfg 0x7F) { fresh with lastCode := .busError } = [.evResp 0x0B .ok [0, 0x02, 0, 0x02]] := by decide

/-- V17: the WREG's transaction; the reply is dropped. -/
theorem test_wframe :
    stepTrace (after (.wreg 0x6D 0x12345678) (withAnswers [.answer (.ok ⟨0x00, 0xDE, 0xAD, 0xBE, 0xEF⟩)])) =
      [.evTxn ⟨0xED, 0x12, 0x34, 0x56, 0x78⟩ ⟨0x00, 0xDE, 0xAD, 0xBE, 0xEF⟩, .evResp 0x04 .ok []] := by decide

/-- V20: the transaction fails; STATUS is `0x00020002`. -/
theorem test_wframe_fails :
    stepTrace (after (.wreg 0x10 1) (withAnswers [.answer .fail])) =
      [.evTxnFail ⟨0x90, 0x00, 0x00, 0x00, 0x01⟩, .evResp 0x04 .busError []] ∧
      (stepped (after (.wreg 0x10 1) (withAnswers [.answer .fail]))).status = 0x00020002 := by decide

/-- V17: the second transaction of the RREG; byte 0 is dropped. -/
theorem test_rframe :
    stepTrace { after (.rreg 0x6D) (withAnswers [.answer (.ok ⟨0xAB, 0x12, 0x34, 0x56, 0x78⟩)]) with seq := .rdT2 } =
      [.evTxn ⟨0x6D, 0x00, 0x00, 0x00, 0x00⟩ ⟨0xAB, 0x12, 0x34, 0x56, 0x78⟩,
        .evResp 0x05 .ok [0x12, 0x34, 0x56, 0x78]] := by decide

/-- V24 (the confirming read, back-off to come) and V30 (the read fails, `position` kept). -/
theorem test_rframe_homing :
    stepTrace (readingAt .seekT2 [.answer (.ok stallReply)]) =
      [.evTxn ⟨0x6F, 0x00, 0x00, 0x00, 0x00⟩ stallReply, .evDir .plus] ∧
      (stepped (readingAt .seekT2 [.answer (.ok stallReply)])).hstate = .hConfirmed ∧
      stepTrace (readingAt .seekT1 [.answer .fail]) =
        [.evTxnFail ⟨0x6F, 0x00, 0x00, 0x00, 0x00⟩, .evResp 0x03 .busError []] ∧
      (stepped (readingAt .seekT1 [.answer .fail])).position = 12 := by decide

/-! ### The step actions -/

/-- V3: the delays of `MOVE 5, 1000, 300, 0`. -/
theorem test_delays :
    (List.range 5).map (after (.move 5 1000 300 0) fresh).prof.delay = [650, 300, 300, 650, 1000] := by
  decide +kernel

/-- V13: delays of the largest move. -/
theorem test_delays_largest :
    let p := (after (.move 2147483647 1000 300 0) (freshAt (-2147483648))).prof
    p.n = 4294967295 ∧ p.ramp = 2147483647 ∧ p.delay 0 = 2147483646300 / 2147483647 ∧
      p.delay 2147483647 = 300 ∧ p.delay 2147483648 = 644245094800 / 2147483647 ∧ p.delay 4294967294 = 1000 := by
  decide +kernel

/-- V8: the last forward step reverses after the pause. -/
theorem test_last_forward_step :
    stepTrace { movingAt 5 with cfg := { moving.cfg with revpause := 50 } } =
      [.evStep 1000, .evDir .minus, .evPause 50] := by decide +kernel

/-- V8: the last reverse step ends the MOVE at its target. -/
theorem test_last_reverse_step :
    stepTrace (reversing 1) = [.evStep 400, .evResp 0x02 .ok []] ∧ (stepped (reversing 1)).position = 4 := by
  decide +kernel

/-- V14, variants: a cancel at `Fwd(5)` and at `Rev(1)` leaves `position = 5`, with no pulse. -/
theorem test_cancelled_move :
    stepTrace { movingAt 5 with cancelReq := true } = [.evResp 0x02 .cancelled []] ∧
      (stepped { movingAt 5 with cancelReq := true }).position = 5 ∧
      (stepped { reversing 1 with cancelReq := true }).position = 5 := by decide

/-- V26: an exhausted budget; V33: a cancel comes before it. -/
theorem test_seek_boundary :
    stepTrace { seeking with cfg := { seeking.cfg with homebudget := 0 } } = [.evResp 0x03 .homingTimeout []] ∧
      stepTrace { seeking with cfg := { seeking.cfg with homebudget := 0 }, cancelReq := true } =
        [.evResp 0x03 .cancelled []] := by decide

/-- V32: a cancel in the back-off leaves `position` as it was. -/
theorem test_cancelled_back_off :
    stepTrace { backingOff 2 with cancelReq := true } = [.evResp 0x03 .cancelled []] ∧
      (stepped { backingOff 2 with cancelReq := true }).position = 12 := by decide

/-- V24: the last back-off step zeroes `position`; STATUS is `0x00000032`. -/
theorem test_last_back_off_step :
    stepTrace (backingOff 3) = [.evStep 1000, .evResp 0x03 .ok []] ∧ (stepped (backingOff 3)).position = 0 ∧
      (stepped (backingOff 3)).status = 0x00000032 := by decide +kernel

/-- R77: the spelling of a command. -/
theorem test_spelling :
    spellingOf (.home .minus .predFlag) = "HOME -, FLAG" ∧ spellingOf (.wreg 16 1) = "WREG 16, 1" := by decide

/-! ### The invariant on concrete states, for the statements that assume it -/

theorem inv_of_fresh (p : Word) : (freshAt p).Inv where
  stepLow := rfl
  csLow := rfl
  enabled := rfl
  busyInit := fun _ => rfl
  seqFits := rfl
  moving := ⟨nofun, by rintro (h | h) <;> cases h⟩
  cancel := nofun
  hstate := Or.inl rfl
  lastCode := trivial
  fields := by show ∀ k : Fin 8, fieldLegal Config.descTmc.fields[k] = true; decide
  mem := rfl
  run := trivial
  move := nofun
  home := nofun

theorem inv_of_moving : moving.Inv where
  stepLow := rfl
  csLow := rfl
  enabled := rfl
  busyInit := fun _ => rfl
  seqFits := Or.inl ⟨rfl, rfl⟩
  moving := by decide
  cancel := by decide
  hstate := Or.inl rfl
  lastCode := trivial
  fields := by decide
  mem := rfl
  run := ⟨⟨by decide, by decide, rfl, rfl, rfl⟩, by decide, rfl, rfl⟩
  move := fun _ => ⟨⟨rfl, rfl, rfl⟩, by decide, by decide, by decide⟩
  home := nofun

theorem inv_of_seeking : seeking.Inv where
  stepLow := rfl
  csLow := rfl
  enabled := rfl
  busyInit := fun _ => rfl
  seqFits := rfl
  moving := by decide
  cancel := by decide
  hstate := rfl
  lastCode := trivial
  fields := by decide
  mem := rfl
  run := trivial
  move := nofun
  home := fun _ => ⟨rfl, rfl, by decide, by decide⟩

/-! ### Witnesses: states and operands that meet the hypotheses of each statement, clause by clause -/

theorem witness_ResetInputAbandonsTheOperation : { moving with agenda := [.reset] }.agenda = .reset :: [] := rfl

theorem witness_StepRunsWhatIsNext :
    { moving with agenda := [.packet [0x08], .act] }.agenda = .packet [0x08] :: [.act] ∧
      decodeCommand [0x08] = .instr .ismov ∧ { moving with agenda := [.act] }.agenda = .act :: [] ∧
      moving.agenda = [] ∧ (after (.wreg 1 2) fresh).seq = .wrT ∧ (after (.rreg 1) fresh).seq = .rdT1 ∧
      (readingAt .seekT2 []).seq = .seekT2 := by decide

theorem witness_FetchedWordIsRun :
    decodeTableWord 8 0x01 = some .init ∧ Instr.init.port = .command ∧
      decodeTableWord 40 0x8000000000 = some (.wframe 0 0) ∧ decodeTableWord 40 0x7F00000000 = some (.rframe 0x7F) := by
  decide

theorem witness_IdleBlockWaits : fresh.seq = .idle ∧ fresh.agenda = [] := by decide

theorem witness_IllegalPacketOnlyAnswers :
    { moving with agenda := [.packet []] }.agenda = .packet [] :: [] ∧ packetLegal [] = false ∧
      { fresh with agenda := [.packet [0x03, 0x04]] }.agenda = .packet [0x03, 0x04] :: [] ∧
      packetLegal [0x03, 0x04] = false := by decide

theorem witness_DecoderAcceptsExactlyLegalPackets :
    packetLegal [0x05, 0x7F] = true ∧ decodeCommand [0x05, 0x7F] = .instr (.rreg 0x7F) ∧
      packetLegal [0x05, 0x80] = false := by decide

/-- The addresses on either side of the excluded one, and the last. -/
theorem witness_WrittenOutWordsDecode :
    (0x05 : Addr).toNat ≠ 0x06 ∧ (0x07 : Addr).toNat ≠ 0x06 ∧ (0x7F : Addr).toNat ≠ 0x06 := by decide

theorem witness_EncodeOfDecodeIsTheBytes :
    decodeAt .command [0x05, 0x7F] = .instr (.rreg 0x7F) ∧
      decodeAt .wire [0x7F, 0, 0, 0, 0] = .instr (.rframe 0x7F) := by decide

theorem witness_InitTurnsTheBlockOn : tmc.seq = .idle ∧ moving.seq ≠ .idle := by decide

theorem witness_IsmovTellsMoveOrHome : moving.Inv ∧ (freshAt 0).Inv := ⟨inv_of_moving, inv_of_fresh 0⟩

/-- Every clause, at the ends of its range of indices and values. -/
theorem witness_SetcfgWritesTheNamedRegister :
    tmc.seq = .idle ∧ moving.seq ≠ .idle ∧ (0x7F : Word).toNat ≤ 0x7F ∧ 0x7F < (0x80 : Word).toNat ∧
      (0x20 : Byte).toNat = 0x20 + (0 : Fin 8).val ∧ (0x27 : Byte).toNat = 0x20 + (7 : Fin 8).val ∧
      (32 ≤ 32 ∧ (0x2000 : Word).toNat % 2 ^ 5 + (0x2000 : Word).toNat / 2 ^ 8 % 2 ^ 6 ≤ 32) ∧
      ¬((0x2001 : Word).toNat % 2 ^ 5 + (0x2001 : Word).toNat / 2 ^ 8 % 2 ^ 6 ≤ 32) ∧
      (2 ≤ (0x02 : Byte).toNat ∧ (0x0F : Byte).toNat < 0x10) ∧
      (0x18 ≤ (0x18 : Byte).toNat ∧ (0x1F : Byte).toNat < 0x20) ∧ 0x28 ≤ (0x28 : Byte).toNat ∧
      (after (.setcfg 0x27 0x2000) tmc).cfg.fields[7] = ⟨0, 32⟩ ∧
      trace (.setcfg 0x0F 0) tmc = [.evResp 0x0A .configurationError []] ∧
      trace (.setcfg 0x1F 0) tmc = [.evResp 0x0A .configurationError []] ∧
      trace (.setcfg 0x28 0) tmc = [.evResp 0x0A .configurationError []] := by decide

/-- Every clause, at the ends of its range of indices. -/
theorem witness_GetcfgAnswersTheNamedRegister :
    trace (.getcfg 0x00) tmc = [.evResp 0x0B .ok [0, 0, 0, 0x01]] ∧
      trace (.getcfg 0x16) (readyAt 0) = [.evResp 0x0B .ok [0, 0, 0x01, 0x2C]] ∧
      trace (.getcfg 0x20) tmc = [.evResp 0x0B .ok [0, 0, 0x01, 0x18]] ∧
      trace (.getcfg 0x7F) moving = [.evResp 0x0B .ok [0, 0, 0x01, 0x03]] ∧
      trace (.getcfg 0x02) tmc = [.evResp 0x0B .configurationError []] ∧
      trace (.getcfg 0x0F) tmc = [.evResp 0x0B .configurationError []] ∧
      trace (.getcfg 0x1F) tmc = [.evResp 0x0B .configurationError []] ∧
      trace (.getcfg 0xFF) tmc = [.evResp 0x0B .configurationError []] := by decide

theorem witness_SetThenGetReadsBack :
    (tmc.seq = .idle ∧ exec (.setcfg 0x00 0xFFFFFFFF) tmc = .next (after (.setcfg 0x00 0xFFFFFFFF) tmc) ∧
        (after (.setcfg 0x00 0xFFFFFFFF) tmc).out = tmc.out ++ [.evResp 0x0A .ok []]) ∧
      (exec (.setcfg 0x27 0x2000) tmc = .next (after (.setcfg 0x27 0x2000) tmc) ∧
        (after (.setcfg 0x27 0x2000) tmc).out = tmc.out ++ [.evResp 0x0A .ok []]) :=
  ⟨⟨rfl, rfl, by decide⟩, rfl, by decide⟩

theorem witness_BusyRefusalsHaveNoEffect : moving.seq ≠ .idle ∧ seeking.seq ≠ .idle := by decide

theorem witness_NothingRunsBeforeInit :
    (tmc.seq = .idle ∧ tmc.initialized = false ∧ exec .init tmc = .next (after .init tmc)) ∧
      (step moving = .next (stepped moving) ∧ moving.agenda.head? ≠ some .reset ∧ moving.initialized = true) ∧
      (let s : State := { tmc with agenda := [.packet [0x01]] };
        step s = .next (stepped s) ∧ s.agenda.head? ≠ some .reset ∧ s.initialized = false ∧
          (stepped s).initialized = true) :=
  ⟨⟨rfl, rfl, rfl⟩, ⟨rfl, by decide, rfl⟩, rfl, by decide, rfl, rfl⟩

/-- Every clause, at the ends of its range: V8, V9, V10, V12. -/
theorem witness_MoveIsCheckedThenStarted :
    (moving.seq ≠ .idle) ∧ (tmc.seq = .idle ∧ tmc.initialized = false) ∧
      (fresh.seq = .idle ∧ fresh.initialized = true) ∧
      ((0 : Word).toNat = 0) ∧ ((300 : Word).toNat < (1000 : Word).toNat) ∧
      (1 ≤ (300 : Word).toNat ∧ (300 : Word).toNat ≤ (1000 : Word).toNat) ∧
      ((42 : Word).toInt = (freshAt 42).position.toInt) ∧
      ((freshAt 2147483640).position.toInt < (2147483647 : Word).toInt ∧
        2 ^ 31 - 1 < (2147483647 : Word).toInt + (1 : Word).toNat ∧
        (2147483647 : Word).toInt + (0 : Word).toNat ≤ 2 ^ 31 - 1) ∧
      ((-2147483648 : Word).toInt < (freshAt (-2147483640)).position.toInt ∧
        (-2147483648 : Word).toInt - (1 : Word).toNat < -2 ^ 31 ∧
        -2 ^ 31 ≤ (-2147483648 : Word).toInt - (0 : Word).toNat) := by decide

/-- Ramp 0 (one step), and the first, last, plateau steps of V3. -/
theorem witness_DelayFollowsTheThreePhases :
    let one := (after (.move 1 1000 300 0) fresh).prof
    let five := (after (.move 5 1000 300 0) fresh).prof
    one.Wf ∧ 0 < one.total ∧ one.ramp = 0 ∧ five.Wf ∧ 4 < five.total ∧ 0 < five.ramp ∧ 1 < five.ramp ∧
      five.total - five.ramp ≤ 3 ∧ five.total - five.ramp ≤ 4 ∧ five.ramp ≤ 2 ∧ 2 < five.total - five.ramp :=
  ⟨⟨by decide, by decide, rfl, rfl, rfl⟩, by decide, rfl, ⟨by decide, by decide, rfl, rfl, rfl⟩,
    by decide, by decide, by decide, by decide, by decide, by decide, by decide⟩

/-- V3 (`d0 > dm`, its one plateau step 2) and V11 (`d0 = dm`). -/
theorem witness_DelayProfileIsATrapezoid :
    let p := (after (.move 5 1000 300 0) fresh).prof
    let q := (after (.move 4 500 500 0) fresh).prof
    p.Wf ∧ 0 < p.ramp ∧ p.ramp ≤ 2 ∧ 2 < p.total - p.ramp ∧ p.dm.toNat < p.d0.toNat ∧ 0 + 1 < p.ramp ∧
      p.total - p.ramp ≤ 3 ∧ 3 + 1 < p.total ∧ q.Wf ∧ q.d0.toNat = q.dm.toNat :=
  ⟨⟨by decide, by decide, rfl, rfl, rfl⟩, by decide, by decide, by decide, by decide, by decide, by decide, by decide,
    ⟨by decide, by decide, rfl, rfl, rfl⟩, rfl⟩

theorem witness_DelaysOfARunSumUp :
    (after (.move 5 1000 300 0) fresh).prof.Wf ∧ 0 < (after (.move 5 1000 300 0) fresh).prof.ramp :=
  ⟨⟨by decide, by decide, rfl, rfl, rfl⟩, by decide⟩

/-- Both ends of each phase of V3's run, the ramp of length 0, and a reverse step. -/
theorem witness_PhaseOfAStep :
    let five (i : Nat) : State := { after (.move 5 1000 300 0) fresh with seq := .fwd i }
    ((five 0).seq = .fwd 0 ∧ 0 < (five 0).prof.ramp ∧ 1 < (five 1).prof.ramp) ∧
      ((five 3).prof.ramp ≤ 3 ∧ (five 3).prof.total - (five 3).prof.ramp ≤ 3) ∧
      ((five 2).prof.ramp ≤ 2 ∧ 2 < (five 2).prof.total - (five 2).prof.ramp) ∧
      (after (.move 1 1000 300 0) fresh).prof.ramp = 0 ∧ (reversing 1).seq = .rev 1 := by decide

/-- V8 at `Fwd(4)` and `Fwd(5)`; a MOVE without overshoot and the back-off, at their last steps. -/
theorem witness_ForwardStepPulsesOnce :
    ((after .cancel (movingAt 4)).seq = .fwd 4 ∧ (after .cancel (movingAt 4)).cancelReq = true) ∧
      ((after .cancel (backingOff 0)).seq = .fwd 0 ∧ (after .cancel (backingOff 0)).cancelReq = true) ∧
      ((movingAt 4).seq = .fwd 4 ∧ (movingAt 4).cancelReq = false ∧ 4 + 1 < (movingAt 4).prof.total) ∧
      ((movingAt 5).prof.total ≤ 5 + 1 ∧ 0 < (movingAt 5).prof.ovs.toNat) ∧
      (let one := after (.move 1 1000 300 0) fresh;
        one.seq = .fwd 0 ∧ one.prof.total ≤ 0 + 1 ∧ one.prof.ovs.toNat = 0 ∧ one.prof.ctx = .ctxMove ∧
          one.op = .opMove) ∧
      ((backingOff 3).prof.total ≤ 3 + 1 ∧ (backingOff 3).prof.ovs.toNat = 0 ∧ (backingOff 3).prof.ctx = .ctxHome ∧
        (backingOff 3).op = .opHome) := by decide

theorem witness_ReverseStepPulsesOnce :
    ((reversing 0).seq = .rev 0 ∧ (reversing 0).cancelReq = false ∧ (reversing 0).prof.ctx = .ctxMove ∧
        (reversing 0).op = .opMove ∧ 0 + 1 < (reversing 0).prof.ovs.toNat) ∧
      ((after .cancel (reversing 0)).seq = .rev 0 ∧ (after .cancel (reversing 0)).cancelReq = true) ∧
      (reversing 1).prof.ovs.toNat ≤ 1 + 1 := by decide

theorem witness_CancelEndsTheRunBeforeThePulse :
    ((after .cancel (movingAt 5)).seq = .fwd 5 ∧ (after .cancel (movingAt 5)).cancelReq = true ∧
        (movingAt 5).prof.ctx = .ctxMove ∧ (movingAt 5).op = .opMove) ∧
      ((after .cancel (reversing 1)).seq = .rev 1 ∧ (after .cancel (reversing 1)).cancelReq = true) ∧
      ((after .cancel (backingOff 0)).cancelReq = true ∧ (backingOff 0).prof.ctx = .ctxHome ∧
        (backingOff 0).op = .opHome) := by decide

theorem witness_PositionShownDuringAMove : moving.Inv ∧ moving.op = .opMove := ⟨inv_of_moving, rfl⟩

/-- V8 and the two shortest moves at the ends of 32 bits. -/
theorem witness_MoveRunsToTheTarget :
    (freshAt 0).Inv ∧ (freshAt 0).seq = .idle ∧ (freshAt 0).initialized = true ∧ (freshAt 0).agenda = [] ∧
      1 ≤ (400 : Word).toNat ∧ (400 : Word).toNat ≤ (1000 : Word).toNat ∧ (4 : Word) ≠ (freshAt 0).position ∧
      (-2 ^ 31 : Int) ≤ (4 : Word).toInt ∧ (4 : Word).toInt + (2 : Word).toNat ≤ 2 ^ 31 - 1 ∧
      (2147483645 : Word).toInt + (2 : Word).toNat ≤ 2 ^ 31 - 1 ∧
      (-2 ^ 31 : Int) ≤ (-2147483646 : Word).toInt - (2 : Word).toNat :=
  ⟨inv_of_fresh 0, rfl, rfl, rfl, by decide⟩

theorem witness_BusCommandsLatchAndStart : fresh.seq = .idle ∧ fresh.initialized = true := by decide

theorem witness_TransactionIsAtomic :
    ((withAnswers [.answer (.ok stallReply)]).transact (readFrame 0x6F)).1 = .ok stallReply ∧
      ((withAnswers [.answer .fail]).transact (readFrame 0x6F)).1 = .fail := by decide

/-- A WREG waiting, its transaction succeeding and failing; a write frame that no WREG waits for. -/
theorem witness_WriteFrameEndsTheWreg :
    let waiting (o : TxnOutcome) : State := after (.wreg 0x6D 0x12345678) (withAnswers [.answer o])
    ((waiting .fail).seq = .wrT ∧ (waiting .fail).op = .opWreg) ∧
      ((waiting .fail).transact ⟨0xED, 0x12, 0x34, 0x56, 0x78⟩).1 = .fail ∧
      ((waiting (.ok zeroReply)).transact ⟨0xED, 0x12, 0x34, 0x56, 0x78⟩).1 = .ok zeroReply ∧ fresh.seq ≠ .wrT := by
  decide

/-- A RREG waiting at each of its boundaries, succeeding and failing; a read frame that no read waits for. -/
theorem witness_ReadFrameServesTheRreg :
    let waiting (o : TxnOutcome) : State := after (.rreg 0x6D) (withAnswers [.answer o])
    ((waiting .fail).op = .opRreg ∧ (waiting .fail).seq = .rdT1) ∧
      ((waiting .fail).transact ⟨0x6D, 0, 0, 0, 0⟩).1 = .fail ∧
      ((waiting (.ok stallReply)).transact ⟨0x6D, 0, 0, 0, 0⟩).1 = .ok stallReply ∧
      ({ waiting (.ok stallReply) with seq := .rdT2 }.transact ⟨0x6D, 0, 0, 0, 0⟩).1 = .ok stallReply ∧
      (fresh.seq ≠ .rdT1 ∧ fresh.seq ≠ .rdT2 ∧ fresh.seq ≠ .seekT1 ∧ fresh.seq ≠ .seekT2) := by decide

/-- Fresh with the reference peer. -/
def withReference : State := { fresh with peer := { fresh.peer with mode := .reference } }

theorem inv_of_withReference : withReference.Inv where
  stepLow := rfl
  csLow := rfl
  enabled := rfl
  busyInit := fun _ => rfl
  seqFits := rfl
  moving := by decide
  cancel := by decide
  hstate := Or.inl rfl
  lastCode := trivial
  fields := by decide
  mem := rfl
  run := trivial
  move := nofun
  home := nofun

theorem witness_ReferencePeerIsOneBehind :
    withReference.peer.mem.wf = true ∧ withReference.peer.script = [] ∧ withReference.peer.mode = .reference ∧
      withReference.transact (writeFrame 0x7F 1) =
        ((withReference.transact (writeFrame 0x7F 1)).1, (withReference.transact (writeFrame 0x7F 1)).2) :=
  ⟨rfl, rfl, rfl, rfl⟩

theorem witness_WrittenRegisterReadsBack :
    withReference.Inv ∧ withReference.seq = .idle ∧ withReference.initialized = true ∧
      withReference.peer.mode = .reference ∧ withReference.peer.script = [] :=
  ⟨inv_of_withReference, rfl, rfl, rfl, rfl⟩

theorem witness_ReadReturnsTheValueAtTheRequest :
    withReference.Inv ∧ withReference.seq = .idle ∧ withReference.initialized = true ∧
      withReference.peer.mode = .reference ∧ withReference.peer.script = [] :=
  ⟨inv_of_withReference, rfl, rfl, rfl, rfl⟩

theorem witness_ChipMemoryReadsBack :
    Memory.wf [(3, 0x01), (511, 0xFF)] = true ∧ (511 < 512) ∧ (0 ≠ 511) := by decide

/-- Every clause; an unusable configuration for each of its causes (V34). -/
theorem witness_HomeIsCheckedThenStarted :
    (moving.seq ≠ .idle) ∧ (tmc.seq = .idle ∧ tmc.initialized = false) ∧
      (fresh.seq = .idle ∧ fresh.initialized = true ∧ fresh.cfg.seekdelay.toNat = 0) ∧
      ((readyAt 0).seq = .idle ∧ (readyAt 0).initialized = true) ∧
      trace (.home .plus .predAnalog) (readyAt 0) = [.evDir .plus] ∧
      trace (.home .plus .predFlag) (after (.setcfg 0x13 0) (readyAt 0)) = [.evResp 0x03 .configurationError []] ∧
      trace (.home .plus .predFlag) (after (.setcfg 0x15 200) (readyAt 0)) = [.evResp 0x03 .configurationError []] ∧
      trace (.home .plus .predAnalog) (after (.setcfg 0x27 0) (readyAt 0)) =
        [.evResp 0x03 .configurationError []] := by decide

/-- A cancel, the budget exhausted and one step short of it. -/
theorem witness_SeekStepChecksThenPulses :
    (seeking.seq = .seekStep ∧ seeking.op = .opHome ∧ (after .cancel seeking).cancelReq = true) ∧
      ({ seeking with hom := { seeking.hom with s := 1000 } }.cancelReq = false ∧
        seeking.cfg.homebudget.toNat ≤ (1000 : Word).toNat) ∧
      (999 : Word).toNat < seeking.cfg.homebudget.toNat := by decide

/-- The first read; a second read that does not confirm, and one that does, with and without a back-off, by the flag
and by the magnitude at the threshold's two sides; a failure. -/
theorem witness_StatusReadDebouncesTheStall :
    ((readingAt .seekT1 [.answer (.ok zeroReply)]).op = .opHome ∧
        ((readingAt .seekT1 [.answer (.ok zeroReply)]).transact (readFrame 0x6F)).1 = .ok zeroReply) ∧
      (stepped (readingAt .seekT2 [.answer (.ok zeroReply)])).seq = .seekStep ∧
      (stepped (readingAt .seekT2 [.answer (.ok stallReply)])).seq = .fwd 0 ∧
      (let noBackOff := readingAt .seekT2 [.answer (.ok stallReply)];
        (stepped { noBackOff with cfg := { noBackOff.cfg with homeoffset := 0 } }).hstate = .hZeroed) ∧
      (let analog (b : Byte) : State :=
          { readingAt .seekT2 [.answer (.ok ⟨0, 0, 0, 0, b⟩)] with
            hom := ⟨.minus, .predAnalog, 1, 0⟩, cfg := { seeking.cfg with sgthresh := 100 } };
        (stepped (analog 100)).hstate = .hSeeking ∧ (stepped (analog 99)).hstate = .hConfirmed) ∧
      ((readingAt .seekT2 [.answer .fail]).transact (readFrame 0x6F)).1 = .fail := by decide

/-- V24: `K = 3`, the first two reads without the flag. -/
theorem witness_HomingConfirmsAtStepK :
    let s : State :=
      { seeking with peer := { seeking.peer with
        script := [(zeroReply, zeroReply), (zeroReply, zeroReply)].flatMap
          (fun r => [.answer (.ok r.1), .answer (.ok r.2)]) ++
          .answer (.ok zeroReply) :: .answer (.ok stallReply) :: [] } }
    s.Inv ∧ s.seq = .seekStep ∧ s.agenda = [] ∧ s.cancelReq = false ∧ s.cfg.homen = 1 ∧ s.cfg.homeoffset ≠ 0 ∧
      (∀ r ∈ [(zeroReply, zeroReply), (zeroReply, zeroReply)], s.cfg.stall s.hom.pred r.2.payload = false) ∧
      s.cfg.stall s.hom.pred stallReply.payload = true ∧
      s.hom.s.toNat + 2 + 1 ≤ s.cfg.homebudget.toNat := by
  refine ⟨?_, rfl, rfl, rfl, rfl, by decide, by decide, by decide, by decide⟩
  exact ⟨rfl, rfl, rfl, fun _ => rfl, rfl, by decide, by decide, rfl, trivial, by decide, rfl, trivial, nofun,
    fun _ => ⟨rfl, rfl, by decide, by decide⟩⟩

theorem witness_HomingAlwaysEnds : seeking.Inv ∧ seeking.op = .opHome ∧ seeking.agenda = [] :=
  ⟨inv_of_seeking, rfl, rfl⟩

theorem witness_EveryStepKeepsTheInvariant : moving.Inv ∧ step moving = .next (stepped moving) :=
  ⟨inv_of_moving, rfl⟩

theorem witness_EveryOperationEnds : moving.Inv ∧ moving.agenda = [] := ⟨inv_of_moving, rfl⟩

theorem witness_OneResponsePerCommand :
    { moving with agenda := [.packet [0x08]] }.Inv ∧
      step { moving with agenda := [.packet [0x08]] } = .next (stepped { moving with agenda := [.packet [0x08]] }) ∧
      moving.Inv ∧ moving.agenda = [] ∧ step moving = .next (stepped moving) ∧
      { moving with agenda := [.chipSet 1 2] }.agenda.head? = some (.chipSet 1 2) := by
  have h := inv_of_moving
  exact ⟨⟨h.1, h.2, h.3, h.4, h.5, h.6, h.7, h.8, h.9, h.10, h.11, h.12,
    fun e => ⟨(h.13 e).1, (h.13 e).2, (h.13 e).3, (h.13 e).4⟩, nofun⟩, rfl, h, rfl, rfl, rfl⟩

theorem witness_OnlyTheOwnerWritesPosition :
    (moving.Inv ∧ step moving = .next (stepped moving) ∧ moving.agenda.head? ≠ some .reset) ∧
      (stepped (reversing 1)).position ≠ (reversing 1).position ∧
      (stepped (backingOff 3)).position ≠ (backingOff 3).position ∧
      (stepped (reversing 1)).isMoving ≠ (reversing 1).isMoving :=
  ⟨⟨inv_of_moving, rfl, by decide⟩, by decide +kernel, by decide +kernel, by decide +kernel⟩

theorem witness_ConfigurationIsStableDuringAnOperation :
    step moving = .next (stepped moving) ∧ moving.agenda.head? ≠ some .reset ∧ moving.seq ≠ .idle :=
  ⟨rfl, by decide, by decide⟩

theorem witness_PacketsNeverPulseOrTransact :
    let s : State := { moving with agenda := [.packet [0x01]] }
    s.agenda = .packet [0x01] :: [] ∧ step s = .next (stepped s) := ⟨rfl, rfl⟩

theorem witness_TraceGrowsByAtMostOnePulseOrTransaction :
    step moving = .next (stepped moving) ∧ moving.agenda.head? ≠ some .reset := ⟨rfl, by decide⟩

/-- A step that changes `lastCode`: the cancelled MOVE. -/
theorem witness_OnlyListedCodesAreSent :
    let s : State := { moving with cancelReq := true }
    s.Inv ∧ step s = .next (stepped s) ∧ s.agenda.head? ≠ some .reset ∧ (stepped s).lastCode ≠ s.lastCode := by
  have h := inv_of_moving
  exact ⟨⟨h.1, h.2, h.3, h.4, h.5, h.6, fun _ => Or.inl rfl, h.8, h.9, h.10, h.11, h.12,
    fun e => ⟨(h.13 e).1, (h.13 e).2, (h.13 e).3, (h.13 e).4⟩, nofun⟩, rfl, by decide, by decide⟩

/-- A cancelled MOVE meets the hypotheses of `FailuresCleanUp`. -/
theorem cancelled_move_fails (more : List Input) (hm : more = [] ∨ more = [.act, .packet [0x08]]) :
    let s : State := { moving with cancelReq := true, agenda := more }
    s.Inv ∧ (s.agenda = [] ∨ s.agenda.head? = some .act) ∧ step s = .next (stepped s) ∧ s.op ≠ .opNone ∧
      (stepped s).op = .opNone ∧ (stepped s).lastCode ≠ .ok := by
  have h := inv_of_moving
  refine ⟨⟨h.1, h.2, h.3, h.4, h.5, h.6, fun _ => Or.inl rfl, h.8, h.9, h.10, h.11, h.12,
    fun e => ⟨(h.13 e).1, (h.13 e).2, (h.13 e).3, (h.13 e).4⟩, nofun⟩, ?_⟩
  rcases hm with rfl | rfl
  · exact ⟨Or.inl rfl, rfl, by decide, rfl, by decide⟩
  · exact ⟨Or.inr rfl, rfl, by decide, rfl, by decide⟩

/-- With nothing on the agenda, and with a packet still to come after the action. -/
theorem witness_FailuresCleanUp :
    (let s : State := { moving with cancelReq := true };
      s.Inv ∧ (s.agenda = [] ∨ s.agenda.head? = some .act) ∧ step s = .next (stepped s) ∧ s.op ≠ .opNone ∧
        (stepped s).op = .opNone ∧ (stepped s).lastCode ≠ .ok) ∧
      (let s : State := { moving with cancelReq := true, agenda := [.act, .packet [0x08]] };
        s.Inv ∧ (s.agenda = [] ∨ s.agenda.head? = some .act) ∧ step s = .next (stepped s) ∧ s.op ≠ .opNone ∧
          (stepped s).op = .opNone ∧ (stepped s).lastCode ≠ .ok) :=
  ⟨cancelled_move_fails [] (Or.inl rfl), cancelled_move_fails _ (Or.inr rfl)⟩

theorem witness_EnableIsAssertedByInitAlone :
    (step moving = .next (stepped moving) ∧ moving.lines.enableOn = true) ∧
      (let s : State := { tmc with agenda := [.packet [0x01]] };
        step s = .next (stepped s) ∧ s.agenda.head? ≠ some .reset ∧ s.lines.enableOn = false ∧
          (stepped s).lines.enableOn = true) :=
  ⟨⟨rfl, rfl⟩, rfl, by decide, rfl, rfl⟩

theorem witness_PinsFollowTheLines :
    ((freshAt 0).Inv ∧ (freshAt 0).lines.dirSign = .plus ∧ (freshAt 0).initialized = true) ∧
      (seeking.Inv ∧ seeking.lines.dirSign = .minus) ∧ tmc.initialized = false :=
  ⟨⟨inv_of_fresh 0, rfl, rfl⟩, ⟨inv_of_seeking, rfl⟩, rfl⟩

/-- Two states that differ in latches that no rule can read at `Idle`. -/
theorem witness_UnreadLatchesNeverMatter :
    let t : State := { fresh with req := ⟨1, 2, 3, 4⟩, hom := ⟨.minus, .predAnalog, 5, 6⟩ }
    fresh.liveView = t.liveView ∧ fresh ≠ t ∧ step fresh = .next fresh := ⟨rfl, by decide, rfl⟩

theorem witness_DiscardedReplyBytesNeverMatter : fresh.seq = .idle ∧ fresh.initialized = true := by decide

end Sys2Proof.Tests
end

section
/-! ## States with the same live view

Two states have the same live view when they agree on everything but latches that no rule reads before writing them
(`10_state.md` R12 to R15). Each operation of the machine takes two such states to two such states: one lemma per
operation, in the order of the model. A branch is taken by both states or by neither (`State.SameView.ite`). -/

namespace Sys2Proof.Machine

/-- Two states that agree on everything but latches no rule reads before writing them. -/
def State.SameView (s t : State) : Prop := s.liveView = t.liveView

/-- The state with every latch at its reset value. -/
def State.forget (s : State) : State := { s with req := .reset, prof := .reset, bus := .reset, hom := .reset }

/-- What two states with the same live view share: everything but the latches, and each latch where some rule can
still read it. -/
structure State.SharesLive (s t : State) : Prop where
  forget : s.forget = t.forget
  prof   : s.seq.inRun = true → s.prof = t.prof
  req    : s.seq.inRun = true → s.prof.ctx = .ctxMove → s.req = t.req
  addr   : s.seq.inBus = true → s.bus.addr = t.bus.addr
  wdata  : s.seq = .wrT → s.bus.wdata = t.bus.wdata
  hom    : s.seq.inSeek = true → s.hom = t.hom

theorem State.sameView_iff {s t : State} : s.SameView t ↔ s.SharesLive t := by
  rcases s with ⟨⟩
  rcases t with ⟨⟩
  constructor
  · simp only [State.SameView, State.liveView, State.mk.injEq, BusLatch.mk.injEq]
    rintro ⟨rfl, hreq, hprof, hbus, hhom, rfl, rfl, rfl, rfl, rfl, rfl, rfl, rfl, rfl, rfl, rfl, rfl, rfl⟩
    refine ⟨rfl, ?_, ?_, ?_, ?_, ?_⟩ <;> grind
  · rintro ⟨hforget, hprof, hreq, haddr, hwdata, hhom⟩
    simp only [State.forget, State.mk.injEq] at hforget
    obtain ⟨rfl, -, -, -, -, rfl, rfl, rfl, rfl, rfl, rfl, rfl, rfl, rfl, rfl, rfl, rfl, rfl⟩ := hforget
    simp only [State.SameView, State.liveView, State.mk.injEq, BusLatch.mk.injEq]
    grind

namespace State.SameView

/-! ### What two such states share -/

section Shared

variable {s t : State} (h : s.SameView t)
include h

/-- What is read from the live view is the same; most rules below are this for one reader. -/
theorem read {α : Type} (f : State → α) : f s.liveView = f t.liveView := congrArg f h

theorem forget : s.forget = t.forget := (sameView_iff.1 h).forget
theorem position : s.position = t.position := h.read State.position
theorem op : s.op = t.op := h.read State.op
theorem seq : s.seq = t.seq := h.read State.seq
theorem initialized : s.initialized = t.initialized := h.read State.initialized
theorem cancelReq : s.cancelReq = t.cancelReq := h.read State.cancelReq
theorem cfg : s.cfg = t.cfg := h.read State.cfg
theorem agenda : s.agenda = t.agenda := h.read State.agenda
theorem status : s.status = t.status := h.read State.status
theorem movingByte : s.movingByte = t.movingByte := h.read State.movingByte

theorem prof (hr : s.seq.inRun = true) : s.prof = t.prof := (sameView_iff.1 h).prof hr
theorem req (hr : s.seq.inRun = true) (hc : s.prof.ctx = .ctxMove) : s.req = t.req := (sameView_iff.1 h).req hr hc
theorem addr (hb : s.seq.inBus = true) : s.bus.addr = t.bus.addr := (sameView_iff.1 h).addr hb
theorem wdata (hw : s.seq = .wrT) : s.bus.wdata = t.bus.wdata := (sameView_iff.1 h).wdata hw
theorem hom (hk : s.seq.inSeek = true) : s.hom = t.hom := (sameView_iff.1 h).hom hk

/-! ### Operations that read and write no latch -/

theorem emit (e : Event) : (s.emit e).SameView (t.emit e) := h.read (State.emit e)
theorem respond (cmd : Byte) (code : Code) (p : List Byte) : (s.respond cmd code p).SameView (t.respond cmd code p) :=
  h.emit _
theorem refuse (cmd : Byte) (code : Code) : (s.refuse cmd code).SameView (t.refuse cmd code) := h.emit _
theorem pulse (d : Rat) : (s.pulse d).SameView (t.pulse d) := h.read (State.pulse d)
theorem driveDir (g : Sign) : (s.driveDir g).SameView (t.driveDir g) := h.read (State.driveDir g)
theorem setCs (b : Bool) : (s.setCs b).SameView (t.setCs b) := h.read (State.setCs b)
theorem chipSet (a : Addr) (v : Word) : (s.chipSet a v).SameView (t.chipSet a v) := h.read (State.chipSet a v)
theorem homeCleanUp : s.homeCleanUp.SameView t.homeCleanUp := h.read State.homeCleanUp
theorem initBlock : s.initBlock.SameView t.initBlock := h.read State.initBlock

theorem applyReset : s.applyReset.SameView t.applyReset := h.read State.applyReset

theorem requestCancel : s.requestCancel.SameView t.requestCancel := by
  have hv : ∀ u : State, u.requestCancel.liveView = u.liveView.requestCancel := fun u => by
    rcases u with ⟨_, _, _, _, _, _, op⟩
    cases op <;> rfl
  exact (hv s).trans ((h.read State.requestCancel).trans (hv t).symm)

theorem setCfg (x : Byte) (v : Word) : (s.setCfg x v).SameView (t.setCfg x v) := by
  simp only [State.setCfg, ← h.cfg]
  cases (cfgRegOf x).bind fun r => s.cfg.write r v with
  | some c => exact h.read fun u => { u with cfg := c }.respond Opcode.setcfg.byte .ok []
  | none => exact h.refuse _ _

/-- A move of the sequencer to a boundary that reads no more latches than the last. -/
theorem setSeq (q : Seq) (run : q.inRun = true → s.seq.inRun = true) (bus : q.inBus = true → s.seq.inBus = true)
    (write : q = .wrT → s.seq = .wrT) (seek : q.inSeek = true → s.seq.inSeek = true) :
    { s with seq := q }.SameView { t with seq := q } :=
  sameView_iff.2 ⟨congrArg (fun u => { u with seq := q }) h.forget, fun hq => h.prof (run hq),
    fun hq => h.req (run hq), fun hq => h.addr (bus hq), fun hq => h.wdata (write hq), fun hq => h.hom (seek hq)⟩

end Shared

/-- A branch is taken by both or by neither. -/
theorem ite {p q : Prop} [Decidable p] [Decidable q] {a b c d : State} (hpq : p ↔ q) (ht : p → a.SameView c)
    (hf : ¬p → b.SameView d) : (if p then a else b).SameView (if q then c else d) := by
  by_cases hp : p
  · rw [if_pos hp, if_pos (hpq.1 hp)]
    exact ht hp
  · rw [if_neg hp, if_neg (hp ∘ hpq.2)]
    exact hf hp

/-! ### Operations that end -/

/-- Once an operation has ended no latch is live. -/
theorem complete_of_forget {s t : State} (h : s.forget = t.forget) (code : Code) (p : List Byte) :
    (s.complete code p).SameView (t.complete code p) :=
  sameView_iff.2 ⟨congrArg (State.complete code p) h, nofun, nofun, nofun, nofun, nofun⟩

section Ends

variable {s t : State} (h : s.SameView t)
include h

theorem complete (code : Code) (p : List Byte) : (s.complete code p).SameView (t.complete code p) :=
  complete_of_forget h.forget code p

theorem homeAbort (code : Code) : (s.homeAbort code).SameView (t.homeAbort code) := h.homeCleanUp.complete _ _

theorem homeZero : s.homeZero.SameView t.homeZero :=
  complete_of_forget (congrArg (fun u => { u with hstate := .hZeroed, position := 0, isMoving := false }) h.forget)
    _ _

/-- A MOVE that ends at the same position in both states. -/
theorem complete_at {p q : Word} (hpq : p = q) (code : Code) :
    ({ s with position := p, isMoving := false }.complete code []).SameView
      ({ t with position := q, isMoving := false }.complete code []) :=
  hpq ▸ complete_of_forget (congrArg (fun u => { u with position := p, isMoving := false }) h.forget) _ _

end Ends

/-! ### Profile runs -/

/-- A run starts the same way where both states have latched the same request for it. -/
theorem startProfile {s t : State} (h : s.SameView t) {g g' : Sign} {n n' : Nat} {ovs d0 d0' dm dm' : Word} {x : Ctx}
    (hg : g = g') (hn : n = n') (h0 : d0 = d0') (hm : dm = dm') (hreq : x = .ctxMove → s.req = t.req) :
    (s.startProfile g n ovs d0 dm x).SameView (t.startProfile g' n' ovs d0' dm' x) := by
  subst hg hn h0 hm
  refine sameView_iff.2 ⟨?_, fun _ => ?_, fun _ => hreq, nofun, nofun, nofun⟩
  · exact congrArg (fun u => { u.driveDir g with seq := .fwd 0 }) h.forget
  · simp only [State.startProfile_prof, h.position]

section Run

variable {s t : State} (h : s.SameView t) (hr : s.seq.inRun = true)
include h hr

theorem countStep (d : Int) : (s.countStep d).SameView (t.countStep d) := by
  have hp := h.prof hr
  have hpos : (s.countStep d).position = (t.countStep d).position := by
    simp only [State.countStep_position, hp, h.cfg, h.position]
  refine sameView_iff.2 ⟨?_, fun _ => ?_, h.req, h.addr, h.wdata, h.hom⟩
  · change { s.forget with position := (s.countStep d).position } =
      { t.forget with position := (t.countStep d).position }
    rw [hpos, h.forget]
  · simp only [State.countStep_prof, hp]

theorem finish : s.finish.SameView t.finish := by
  have hp := h.prof hr
  cases hc : s.prof.ctx with
  | ctxMove =>
    rw [State.finish_move s hc, State.finish_move t (hp ▸ hc)]
    exact h.complete_at (by rw [h.req hr hc]) _
  | ctxHome =>
    rw [State.finish_home s hc, State.finish_home t (hp ▸ hc)]
    exact h.homeZero

theorem cancelRun : s.cancelRun.SameView t.cancelRun := by
  have hp := h.prof hr
  cases hc : s.prof.ctx with
  | ctxMove =>
    rw [State.cancelRun_move s hc, State.cancelRun_move t (hp ▸ hc)]
    exact h.complete_at (by rw [hp]) _
  | ctxHome =>
    rw [State.cancelRun_home s hc, State.cancelRun_home t (hp ▸ hc)]
    exact h.homeAbort _

theorem reverse : s.reverse.SameView t.reverse := by
  simp only [State.reverse, ← h.prof hr, ← h.cfg]
  exact ((h.driveDir _).emit _).setSeq (.rev 0) (fun _ => hr) nofun nofun nofun

theorem fwdStep (i : Nat) : (s.fwdStep i).SameView (t.fwdStep i) := by
  have hn : ((s.pulse (s.prof.delay i)).countStep 1).SameView ((t.pulse (t.prof.delay i)).countStep 1) := by
    rw [← h.prof hr]
    exact (h.pulse _).countStep hr 1
  refine ite (by rw [h.cancelReq]) (fun _ => h.cancelRun hr) fun _ => ?_
  refine ite (by rw [hn.prof hr]) (fun _ => hn.setSeq (.fwd (i + 1)) (fun _ => hr) nofun nofun nofun) fun _ => ?_
  exact ite (by rw [hn.prof hr]) (fun _ => hn.reverse hr) fun _ => hn.finish hr

theorem revStep (j : Nat) : (s.revStep j).SameView (t.revStep j) := by
  have hn : ((s.pulse (s.prof.dm.toNat : Rat)).countStep (-1)).SameView
      ((t.pulse (t.prof.dm.toNat : Rat)).countStep (-1)) := by
    rw [← h.prof hr]
    exact (h.pulse _).countStep hr (-1)
  refine ite (by rw [h.cancelReq]) (fun _ => h.cancelRun hr) fun _ => ?_
  exact ite (by rw [hn.prof hr]) (fun _ => hn.setSeq (.rev (j + 1)) (fun _ => hr) nofun nofun nofun) fun _ =>
    hn.finish hr

end Run

/-! ### The seek -/

/-- Homing counters written alike in both states. -/
theorem setHom {s t : State} (h : s.SameView t) {k k' : Hom} (hk : k = k') :
    { s with hom := k }.SameView { t with hom := k' } :=
  sameView_iff.2 ⟨h.forget, h.prof, h.req, h.addr, h.wdata, fun _ => hk⟩

/-- No rule reads `bus.result`, so the live view does not hold it. -/
theorem setResult {s t : State} (h : s.SameView t) (r : Word) :
    { s with bus := { s.bus with result := r } }.SameView { t with bus := { t.bus with result := r } } := h

section Seek

variable {s t : State} (h : s.SameView t) (hk : s.seq.inSeek = true)
include h hk

theorem seekStep : s.seekStep.SameView t.seekStep := by
  refine ite (by rw [h.cancelReq]) (fun _ => h.homeAbort _) fun _ => ?_
  refine ite (by rw [h.cfg, h.hom hk]) (fun _ => h.homeAbort _) fun _ => ?_
  rw [← h.cfg]
  have hs : { s.hom with s := s.hom.s + 1 } = { t.hom with s := t.hom.s + 1 } := by rw [h.hom hk]
  exact ((h.pulse _).setHom hs).setSeq .seekT1 nofun nofun nofun fun _ => hk

theorem confirm : s.confirm.SameView t.confirm := by
  have hc : { s with hstate := .hConfirmed }.SameView { t with hstate := .hConfirmed } :=
    h.read fun u => ({ u with hstate := .hConfirmed } : State)
  refine ite (by rw [h.cfg]) (fun _ => hc.homeZero) fun _ => ?_
  exact hc.startProfile (by rw [h.hom hk]) (by rw [h.cfg]) (by rw [h.cfg]) (by rw [h.cfg]) nofun

theorem takeStatus (w : Word) : (s.takeStatus w).SameView (t.takeStatus w) := by
  have hd : { s.hom with c := s.debounced w } = { t.hom with c := t.debounced w } := by
    simp only [State.debounced, h.hom hk, h.cfg]
  have hn := (h.setResult w).setHom hd
  exact ite (by rw [h.cfg, hd]) (fun _ => hn.confirm hk) fun _ => hn.setSeq .seekStep nofun nofun nofun fun _ => hk

end Seek

/-! ### Starting an operation -/

section Start

variable {s t : State} (h : s.SameView t)
include h

theorem startMove (target d0 dm ovs : Word) :
    (s.startMove target d0 dm ovs).SameView (t.startMove target d0 dm ovs) := by
  refine ite Iff.rfl (fun _ => ?_) fun _ => h.refuse _ _
  refine ite (by rw [h.position]) (fun _ => h.respond _ _ _) fun _ => ?_
  refine ite (by rw [h.position]) (fun _ => ?_) fun _ => h.refuse _ _
  have hl : { s with req := ⟨target, d0, dm, ovs⟩, op := .opMove, isMoving := true }.SameView
      { t with req := ⟨target, d0, dm, ovs⟩, op := .opMove, isMoving := true } := by
    refine sameView_iff.2 ⟨?_, h.prof, fun _ _ => rfl, h.addr, h.wdata, h.hom⟩
    exact congrArg (fun u => ({ u with op := .opMove, isMoving := true } : State)) h.forget
  exact hl.startProfile (by rw [h.position]) (by rw [h.position]) rfl rfl fun _ => rfl

theorem startHome (dir : Sign) (pred : Pred) : (s.startHome dir pred).SameView (t.startHome dir pred) := by
  refine ite (by rw [h.cfg]) (fun _ => ?_) fun _ => h.refuse _ _
  refine sameView_iff.2 ⟨?_, nofun, nofun, nofun, nofun, fun _ => rfl⟩
  exact congrArg (fun u : State =>
    { { u with op := .opHome, isMoving := true, hstate := .hSeeking }.driveDir dir with seq := .seekStep }) h.forget

theorem startWreg (a : Addr) (v : Word) : (s.startWreg a v).SameView (t.startWreg a v) :=
  sameView_iff.2 ⟨congrArg (fun u => ({ u with op := .opWreg, seq := .wrT } : State)) h.forget,
    nofun, nofun, fun _ => rfl, fun _ => rfl, nofun⟩

theorem startRreg (a : Addr) : (s.startRreg a).SameView (t.startRreg a) :=
  sameView_iff.2 ⟨congrArg (fun u => ({ u with op := .opRreg, seq := .rdT1 } : State)) h.forget,
    nofun, nofun, fun _ => rfl, nofun, nofun⟩

theorem whenIdle (cmd : Byte) {run : State → State} (hrun : (run s).SameView (run t)) :
    (s.whenIdle cmd run).SameView (t.whenIdle cmd run) :=
  ite (by rw [h.seq]) (fun _ => hrun) fun _ => h.refuse _ _

theorem whenInitialized (cmd : Byte) {run : State → State} (hrun : (run s).SameView (run t)) :
    (s.whenInitialized cmd run).SameView (t.whenInitialized cmd run) :=
  ite (by rw [h.initialized]) (fun _ => hrun) fun _ => h.refuse _ _

/-! ### Transactions -/

/-- The bus answers alike: its answer depends on the peer and the count of free values alone. -/
theorem peerAnswer (tx : Bytes5) :
    (s.peerAnswer tx).1 = (t.peerAnswer tx).1 ∧ (s.peerAnswer tx).2.SameView (t.peerAnswer tx).2 := by
  have chip : ∀ u : State, (u.chipAnswer tx).1 = (u.liveView.chipAnswer tx).1 ∧
      (u.chipAnswer tx).2.liveView = (u.liveView.chipAnswer tx).2 := fun u => by
    unfold State.chipAnswer
    split <;> exact ⟨rfl, rfl⟩
  have hv : ∀ u : State, (u.peerAnswer tx).1 = (u.liveView.peerAnswer tx).1 ∧
      (u.peerAnswer tx).2.liveView = (u.liveView.peerAnswer tx).2 := fun u => by
    have hp : u.liveView.peer = u.peer := rfl
    simp only [State.peerAnswer, hp]
    split
    · exact ⟨rfl, rfl⟩
    · exact chip _
    · split
      · exact ⟨rfl, rfl⟩
      · exact chip u
  exact ⟨(hv s).1.trans ((h.read fun u => (u.peerAnswer tx).1).trans (hv t).1.symm),
    (hv s).2.trans ((h.read fun u => (u.peerAnswer tx).2).trans (hv t).2.symm)⟩

theorem latchReply (tx : Bytes5) (o : TxnOutcome) : (s.latchReply tx o).SameView (t.latchReply tx o) :=
  match o with
  | .ok rx => h.emit (.evTxn tx rx)
  | .fail => h.emit (.evTxnFail tx)

theorem transact (tx : Bytes5) :
    (s.transact tx).1 = (t.transact tx).1 ∧ (s.transact tx).2.SameView (t.transact tx).2 := by
  obtain ⟨ho, hs⟩ := (h.setCs true).peerAnswer tx
  refine ⟨ho, ?_⟩
  simp only [State.transact, ho]
  exact (hs.setCs false).latchReply tx _

theorem afterWrite (o : TxnOutcome) : (s.afterWrite o).SameView (t.afterWrite o) := by
  have ht := h.seq
  cases hq : s.seq <;> rw [hq] at ht <;> cases o <;> simp only [State.afterWrite, hq, ← ht]
  case wrT.ok | wrT.fail => exact h.complete _ _
  all_goals exact h

theorem afterRead (o : TxnOutcome) : (s.afterRead o).SameView (t.afterRead o) := by
  have ht := h.seq
  cases hq : s.seq <;> rw [hq] at ht <;> cases o <;> simp only [State.afterRead, hq, ← ht]
  case rdT1.ok => exact h.setSeq .rdT2 nofun (fun _ => by rw [hq]; rfl) nofun nofun
  case rdT2.ok rx => exact (h.setResult rx.payload).complete _ _
  case seekT1.ok => exact h.setSeq .seekT2 nofun nofun nofun fun _ => by rw [hq]; rfl
  case seekT2.ok rx => exact h.takeStatus (by rw [hq]; rfl) _
  case rdT1.fail | rdT2.fail => exact h.complete _ _
  case seekT1.fail | seekT2.fail => exact h.homeAbort _
  all_goals exact h

end Start

end State.SameView

/-- Both results are a next state, and the two have the same live view. -/
def SameNext (r r' : Result) : Prop := ∃ s t : State, r = .next s ∧ r' = .next t ∧ s.SameView t

namespace State.SameView

variable {s t : State} (h : s.SameView t)
include h

theorem next : SameNext (.next s) (.next t) := ⟨s, t, rfl, rfl, h⟩

/-- Every instruction, a wire frame included, runs alike. -/
theorem exec (i : Instr) : SameNext (Machine.exec i s) (Machine.exec i t) := by
  cases i with
  | init => exact (h.whenIdle _ h.initBlock).next
  | move target d0 dm ovs => exact (h.whenIdle _ (h.whenInitialized _ (h.startMove target d0 dm ovs))).next
  | home dir pred => exact (h.whenIdle _ (h.whenInitialized _ (h.startHome dir pred))).next
  | wreg a v => exact (h.whenIdle _ (h.whenInitialized _ (h.startWreg a v))).next
  | rreg a => exact (h.whenIdle _ (h.whenInitialized _ (h.startRreg a))).next
  | decode w =>
    simp only [Machine.exec, execDecode, h.cfg]
    exact (h.respond _ _ _).next
  | getpos =>
    simp only [Machine.exec, execGetpos, h.position]
    exact (h.respond _ _ _).next
  | ismov =>
    simp only [Machine.exec, execIsmov, h.movingByte]
    exact (h.respond _ _ _).next
  | cancel => exact (h.requestCancel.respond _ _ _).next
  | setcfg x v => exact (h.whenIdle _ (h.setCfg x v)).next
  | getcfg x =>
    simp only [Machine.exec, execGetcfg, State.readCfg, h.cfg, h.status]
    split
    · exact (h.respond _ _ _).next
    · exact (h.refuse _ _).next
  | wframe a v =>
    obtain ⟨ho, hs⟩ := h.transact (writeFrame a v)
    simp only [Machine.exec, execWframe, ho]
    exact (hs.afterWrite _).next
  | rframe a =>
    obtain ⟨ho, hs⟩ := h.transact (readFrame a)
    simp only [Machine.exec, execRframe, ho]
    exact (hs.afterRead _).next

theorem pendingFrame : s.pendingFrame = t.pendingFrame := by
  have ht := h.seq
  cases hq : s.seq <;> rw [hq] at ht <;> simp only [State.pendingFrame, hq, ← ht]
  case wrT => rw [h.addr (by rw [hq]; rfl), h.wdata hq]
  case rdT1 | rdT2 => rw [h.addr (by rw [hq]; rfl)]
  case seekT1 | seekT2 => rw [h.cfg]

theorem stepAction : s.stepAction.SameView t.stepAction := by
  have ht := h.seq
  cases hq : s.seq <;> rw [hq] at ht <;> simp only [State.stepAction, hq, ← ht]
  case fwd i => exact h.fwdStep (by rw [hq]; rfl) i
  case rev j => exact h.revStep (by rw [hq]; rfl) j
  case seekStep => exact h.seekStep (by rw [hq]; rfl)
  all_goals exact h

theorem act : SameNext (Machine.act s) (Machine.act t) := by
  simp only [Machine.act, ← h.pendingFrame]
  split
  · exact h.exec _
  · exact h.stepAction.next

theorem takePacket (p : List Byte) : SameNext (Machine.takePacket p s) (Machine.takePacket p t) := by
  simp only [Machine.takePacket]
  split
  · exact h.exec _
  · exact (h.refuse _ _).next

theorem step : SameNext (Machine.step s) (Machine.step t) := by
  have hrest : ∀ rest : List Input, { s with agenda := rest }.SameView { t with agenda := rest } := fun rest =>
    h.read fun u => ({ u with agenda := rest } : State)
  have ha := h.agenda
  unfold Machine.step
  rw [← ha]
  split
  · exact h.act
  · exact (hrest _).act
  · exact (hrest _).takePacket _
  · exact ((hrest _).chipSet _ _).next
  · exact (hrest _).applyReset.next

end State.SameView

/-- Settles O58: a step takes states with the same live view to states with the same live view. -/
theorem unreadLatchesNeverMatter : Obligations.UnreadLatchesNeverMatter := by
  intro s t s' h hs
  obtain ⟨u, t', hu, ht, hv⟩ := State.SameView.step h
  rw [hs] at hu
  cases hu
  exact ⟨t', ht, hv⟩

end Sys2Proof.Machine
end

section
/-! ## What decoding a command yields

The decoder of the command port yields commands alone, each under its own opcode byte (`30_encoding.md` R71). -/

namespace Sys2Proof

theorem byte_of_opcodeOf {b : Byte} {o : Opcode} (h : opcodeOf b = some o) : o.byte = b :=
  eq_of_beq (List.find?_some (p := fun o : Opcode => o.byte == b) h)

/-- What the operands of a command decode to is a command with that opcode byte. -/
theorem decodeOperands_instr {o : Opcode} {ops : List Byte} {i : Instr} (h : decodeOperands o ops = .instr i) :
    i.port = .command ∧ (encode i).head? = some o.byte := by
  cases o <;>
    simp only [decodeOperands, decodeNone, decodeMove, decodeHome, decodeWreg, decodeRreg, decodeDecode, decodeSetcfg,
      decodeGetcfg] at h
  case home | wreg | rreg =>
    split at h
    · split at h <;> cases h
      exact ⟨rfl, rfl⟩
    · cases h
  all_goals
    split at h <;> cases h
    exact ⟨rfl, rfl⟩

theorem decodeCommand_instr {p : List Byte} {i : Instr} (h : decodeCommand p = .instr i) :
    ∃ o ops, p = o.byte :: ops ∧ decodeOperands o ops = .instr i := by
  unfold decodeCommand at h
  split at h
  · cases h
  · next b ops =>
    cases ho : opcodeOf b with
    | none => rw [ho] at h; cases h
    | some o =>
      rw [ho] at h
      exact ⟨o, ops, by rw [byte_of_opcodeOf ho], h⟩

theorem decodeFrame_port {f : List Byte} {i : Instr} (h : decodeFrame f = .instr i) : i.port = .wire := by
  unfold decodeFrame at h
  split at h
  · split at h
    · cases h; rfl
    · split at h
      · cases h; rfl
      · cases h
  · cases h

/-- INIT is the one packet `[0x01]` (R72). -/
theorem decodeCommand_init {p : List Byte} (h : decodeCommand p = .instr .init) : p = [0x01] := by
  obtain ⟨o, ops, rfl, ho⟩ := decodeCommand_instr h
  have hb : some (0x01 : Byte) = some o.byte := (decodeOperands_instr ho).2
  have hinit : o = .init := by revert hb; cases o <;> decide
  subst hinit
  cases ops with
  | nil => rfl
  | cons => cases ho

end Sys2Proof
end

section
/-! ## What a step adds to the trace

A relation of a state and a later one, proved once per operation, says how many pulses and transactions lie between
the two and that neither the INIT flag nor the ENABLE line has changed; INIT alone changes those. -/

namespace Sys2Proof.Machine

/-- From `s` to `t` the trace only grew, by at most `k` pulses and transactions, and the block was not initialised. -/
def State.Extends (k : Nat) (s t : State) : Prop :=
  (∃ new : List Event, t.out = s.out ++ new ∧ new.countP Event.isStep + new.countP Event.isTxn ≤ k) ∧
    t.initialized = s.initialized ∧ t.lines.enableOn = s.lines.enableOn

namespace State.Extends

theorem refl (s : State) : s.Extends 0 s := ⟨⟨[], (List.append_nil _).symm, Nat.le_refl 0⟩, rfl, rfl⟩

variable {j k : Nat} {s t : State}

theorem trace (h : s.Extends k t) :
    ∃ new : List Event, t.out = s.out ++ new ∧ new.countP Event.isStep + new.countP Event.isTxn ≤ k := h.1

theorem initialized (h : s.Extends k t) : t.initialized = s.initialized := h.2.1

theorem enableOn (h : s.Extends k t) : t.lines.enableOn = s.lines.enableOn := h.2.2

theorem mono (h : s.Extends j t) (hjk : j ≤ k) : s.Extends k t := by
  obtain ⟨⟨new, hnew, hj⟩, hrest⟩ := h
  exact ⟨⟨new, hnew, hj.trans hjk⟩, hrest⟩

/-- An operation that appends given events. -/
theorem append {u : State} (h : s.Extends j t) (more : List Event) (out : u.out = t.out ++ more)
    (count : more.countP Event.isStep + more.countP Event.isTxn ≤ k) (initialized : u.initialized = t.initialized)
    (enableOn : u.lines.enableOn = t.lines.enableOn) : s.Extends (j + k) u := by
  obtain ⟨⟨new, hnew, hj⟩, hi, he⟩ := h
  refine ⟨⟨new ++ more, ?_, ?_⟩, initialized.trans hi, enableOn.trans he⟩
  · rw [out, hnew, List.append_assoc]
  · simp only [List.countP_append]
    omega

/-! ### Operations that neither pulse nor send a frame -/

section Silent

variable (h : s.Extends k t)
include h

theorem respond (cmd : Byte) (code : Code) (p : List Byte) : s.Extends k (t.respond cmd code p) :=
  h.append [.evResp cmd code p] rfl (Nat.le_refl 0) rfl rfl

theorem refuse (cmd : Byte) (code : Code) : s.Extends k (t.refuse cmd code) := h.respond cmd code []

theorem complete (code : Code) (p : List Byte) : s.Extends k (t.complete code p) :=
  h.append [.evResp (opcodeOfOp t.op) code p] rfl (Nat.le_refl 0) rfl rfl

theorem driveDir (g : Sign) : s.Extends k (t.driveDir g) := h.append [.evDir g] rfl (Nat.le_refl 0) rfl rfl

theorem homeZero : s.Extends k t.homeZero :=
  complete (t := { t with hstate := .hZeroed, position := 0, isMoving := false }) h .ok []

theorem homeAbort (code : Code) : s.Extends k (t.homeAbort code) := complete (t := t.homeCleanUp) h code []

theorem confirm : s.Extends k t.confirm := by
  unfold State.confirm
  split
  · exact homeZero (t := { t with hstate := .hConfirmed }) h
  · exact h.driveDir _

theorem takeStatus (w : Word) : s.Extends k (t.takeStatus w) := by
  simp only [State.takeStatus]
  split
  · exact confirm (t := { t with bus := { t.bus with result := w }, hom := { t.hom with c := t.debounced w } }) h
  · exact h

theorem finish : s.Extends k t.finish := by
  unfold State.finish
  split
  · exact complete (t := { t with position := t.req.target, isMoving := false }) h .ok []
  · exact h.homeZero

theorem cancelRun : s.Extends k t.cancelRun := by
  unfold State.cancelRun
  split
  · exact complete (t := t.moveCleanUp) h .cancelled []
  · exact h.homeAbort _

theorem reverse : s.Extends k t.reverse :=
  (h.driveDir (signFlip t.prof.sign)).append [.evPause t.cfg.revpause.toNat] rfl (Nat.le_refl 0) rfl rfl

theorem requestCancel : s.Extends k t.requestCancel := by
  unfold State.requestCancel
  split <;> exact h

theorem setCfg (x : Byte) (v : Word) : s.Extends k (t.setCfg x v) := by
  unfold State.setCfg
  split
  · exact h.respond _ _ _
  · exact h.refuse _ _

theorem startMove (target d0 dm ovs : Word) : s.Extends k (t.startMove target d0 dm ovs) := by
  simp only [State.startMove]
  split
  · split
    · exact h.respond _ _ _
    · split
      · exact h.driveDir _
      · exact h.refuse _ _
  · exact h.refuse _ _

theorem startHome (dir : Sign) (pred : Pred) : s.Extends k (t.startHome dir pred) := by
  unfold State.startHome
  split
  · exact h.driveDir dir
  · exact h.refuse _ _

theorem whenIdle (cmd : Byte) {run : State → State} (hrun : s.Extends k (run t)) :
    s.Extends k (t.whenIdle cmd run) := by
  unfold State.whenIdle
  split
  · exact hrun
  · exact h.refuse _ _

theorem whenInitialized (cmd : Byte) {run : State → State} (hrun : s.Extends k (run t)) :
    s.Extends k (t.whenInitialized cmd run) := by
  unfold State.whenInitialized
  split
  · exact hrun
  · exact h.refuse _ _

theorem afterWrite (o : TxnOutcome) : s.Extends k (t.afterWrite o) := by
  unfold State.afterWrite
  split
  · split <;> exact h.complete _ _
  · exact h

theorem afterRead (o : TxnOutcome) : s.Extends k (t.afterRead o) := by
  unfold State.afterRead
  split
  · split
    · exact h
    · exact h.complete _ _
  · split
    · exact h.complete _ _
    · exact h.complete _ _
  · split
    · exact h
    · exact h.homeAbort _
  · split
    · exact h.takeStatus _
    · exact h.homeAbort _
  · exact h

end Silent

/-! ### Operations that pulse or send a frame, once -/

section Once

variable (h : s.Extends 0 t)
include h

theorem pulse (d : Rat) : s.Extends 1 (t.pulse d) := h.append [.evStep d] rfl (Nat.le_refl 1) rfl rfl

theorem transact (tx : Bytes5) : s.Extends 1 (t.transact tx).2 := by
  have hout : (t.transact tx).2.out = t.out ++ [txnEvent tx (t.transact tx).1] := by rw [State.transact_frame]
  refine h.append (k := 1) _ hout ?_ (by rw [State.transact_frame]) (by rw [State.transact_frame])
  cases (t.transact tx).1 <;> exact Nat.le_refl 1

theorem fwdStep (i : Nat) : s.Extends 1 (t.fwdStep i) := by
  have hn : s.Extends 1 ((t.pulse (t.prof.delay i)).countStep 1) := h.pulse _
  simp only [State.fwdStep]
  split
  · exact (h.mono (Nat.zero_le 1)).cancelRun
  · split
    · exact hn
    · split
      · exact hn.reverse
      · exact hn.finish

theorem revStep (j : Nat) : s.Extends 1 (t.revStep j) := by
  have hn : s.Extends 1 ((t.pulse (t.prof.dm.toNat : Rat)).countStep (-1)) := h.pulse _
  simp only [State.revStep]
  split
  · exact (h.mono (Nat.zero_le 1)).cancelRun
  · split
    · exact hn
    · exact hn.finish

theorem seekStep : s.Extends 1 t.seekStep := by
  unfold State.seekStep
  split
  · exact (h.mono (Nat.zero_le 1)).homeAbort _
  · split
    · exact (h.mono (Nat.zero_le 1)).homeAbort _
    · exact h.pulse _

theorem stepAction : s.Extends 1 t.stepAction := by
  unfold State.stepAction
  split
  · exact h.fwdStep _
  · exact h.revStep _
  · exact h.seekStep
  · exact h.mono (Nat.zero_le 1)

end Once

end State.Extends

/-! ### Instructions and steps -/

/-- Every instruction but an INIT taken at `Idle` makes at most one pulse or transaction and leaves the block as
initialised as it was. -/
theorem exec_extends {i : Instr} {s t : State} (h : exec i s = .next t) :
    s.Extends 1 t ∨ i = .init ∧ s.seq = .idle ∧ t = s.initBlock := by
  have h0 := State.Extends.refl s
  have h1 := h0.mono (Nat.zero_le 1)
  cases i with
  | init =>
    cases h
    by_cases hq : s.seq = .idle
    · exact .inr ⟨rfl, hq, State.whenIdle_idle _ _ s hq⟩
    · rw [State.whenIdle_busy _ _ s hq]
      exact .inl (h1.refuse _ _)
  | move => cases h; exact .inl (h1.whenIdle _ (h1.whenInitialized _ (h1.startMove ..)))
  | home => cases h; exact .inl (h1.whenIdle _ (h1.whenInitialized _ (h1.startHome ..)))
  | wreg => cases h; exact .inl (h1.whenIdle _ (h1.whenInitialized _ h1))
  | rreg => cases h; exact .inl (h1.whenIdle _ (h1.whenInitialized _ h1))
  | decode | getpos | ismov => cases h; exact .inl (h1.respond _ _ _)
  | cancel => cases h; exact .inl (h1.requestCancel.respond _ _ _)
  | setcfg x v => cases h; exact .inl (h1.whenIdle _ (h1.setCfg x v))
  | getcfg x =>
    simp only [exec, execGetcfg] at h
    split at h <;> cases h
    · exact .inl (h1.respond _ _ _)
    · exact .inl (h1.refuse _ _)
  | wframe => cases h; exact .inl ((h0.transact _).afterWrite _)
  | rframe => cases h; exact .inl ((h0.transact _).afterRead _)

theorem takePacket_extends {p : List Byte} {s t : State} (h : takePacket p s = .next t) :
    s.Extends 1 t ∨ p = [0x01] ∧ s.seq = .idle ∧ t = s.initBlock := by
  unfold takePacket at h
  split at h
  · next i hi =>
    refine (exec_extends h).imp_right fun ⟨hinit, hrest⟩ => ⟨decodeCommand_init (hinit ▸ hi), hrest⟩
  · cases h
    exact .inl (((State.Extends.refl s).mono (Nat.zero_le 1)).refuse _ _)

theorem act_extends {s t : State} (h : act s = .next t) : s.Extends 1 t := by
  unfold act at h
  split at h
  · next i hi =>
    refine (exec_extends h).resolve_right fun ⟨hinit, hq, _⟩ => ?_
    simp [State.pendingFrame, hq] at hi
  · cases h
    exact (State.Extends.refl s).stepAction

/-- What a step that is no reset can do: one action that leaves the block as initialised as it was, or the INIT
packet taken at `Idle`. -/
theorem step_extends {s t : State} (h : step s = .next t) (hr : s.agenda.head? ≠ some .reset) :
    s.Extends 1 t ∨ s.agenda.head? = some (.packet [0x01]) ∧ s.seq = .idle ∧
      t = { s with agenda := s.agenda.tail }.initBlock := by
  rcases ha : s.agenda with _ | ⟨p | _ | ⟨a, v⟩ | _, rest⟩ <;> simp only [step, ha] at h
  · exact .inl (act_extends h)
  · exact (takePacket_extends h).imp_right fun ⟨hp, hq, ht⟩ => ⟨by rw [hp]; rfl, hq, ht⟩
  · exact .inl (act_extends (s := { s with agenda := rest }) h)
  · cases h
    exact .inl ((State.Extends.refl s).mono (Nat.zero_le 1))
  · exact absurd (by rw [ha]; rfl) hr

/-- Settles O53: INIT emits no pulse and no transaction, every other action at most one. -/
theorem traceGrowsByAtMostOnePulseOrTransaction : Obligations.TraceGrowsByAtMostOnePulseOrTransaction := by
  intro s t h hr
  rcases step_extends h hr with hx | ⟨-, -, rfl⟩
  · exact hx.trace
  · exact ⟨[.evEnable true, .evResp 0x01 .ok []], by simp [State.initBlock, Opcode.byte], by decide⟩

/-- Settles O20: of the actions that are no reset only INIT at `Idle` does not keep `initialized`, and it sets it. -/
theorem nothingRunsBeforeInit : Obligations.NothingRunsBeforeInit := by
  refine ⟨rfl, fun s t hq h => ?_, fun s t h hr => ?_, fun s hq hi => ?_⟩
  · cases h
    rw [State.whenIdle_idle _ _ s hq]
    rfl
  · rcases step_extends h hr with hx | ⟨hp, hq, rfl⟩
    · rw [hx.initialized]
      exact ⟨id, fun hoff hon => absurd (hoff.symm.trans hon) (by decide)⟩
    · exact ⟨fun _ => rfl, fun _ _ => ⟨hp, hq⟩⟩
  · have hrefused : ∀ (cmd : Byte) (run : State → State),
        s.whenIdle cmd (State.whenInitialized cmd run) = s.refuse cmd .notInitialized := fun cmd run => by
      rw [State.whenIdle_idle _ _ s hq, State.whenInitialized_off _ _ s hi]
    exact ⟨fun _ _ _ _ => congrArg _ (hrefused _ _), fun _ _ => congrArg _ (hrefused _ _),
      fun _ _ => congrArg _ (hrefused _ _), fun _ => congrArg _ (hrefused _ _)⟩

end Sys2Proof.Machine
end

section
/-! ## Configuration registers written and read back

SETCFG stores a value with its reserved bits 0 (`storedValue`), and GETCFG answers what is stored. -/

namespace Sys2Proof.Machine

/-- The value a register holds after a write of `v`: reserved bits are 0 (`10_state.md` R28, `30_encoding.md` R79). -/
def storedValue (r : CfgReg) (v : Word) : Nat :=
  match r with
  | .pincfg => v.toNat % 8
  | .field _ => v.toNat % 2 ^ 5 + v.toNat / 2 ^ 8 % 2 ^ 6 * 2 ^ 8
  | _ => v.toNat

theorem wordOfField_toNat (e : FieldEntry) : (wordOfField e).toNat = e.lsb.toNat + e.width.toNat * 2 ^ 8 := by
  have hl := e.lsb.isLt
  have hw : (wordOfField e).toNat = e.width.toNat <<< 8 ||| e.lsb.toNat := by
    simp only [wordOfField, BitVec.toNat_append, BitVec.toNat_ofNat, Nat.zero_mod, Nat.zero_shiftLeft, Nat.zero_or,
      Nat.or_zero, ← Nat.shiftLeft_add]
  rw [hw, ← Nat.shiftLeft_add_eq_or_of_lt (by omega), Nat.shiftLeft_eq, Nat.add_comm]

theorem fieldOfWord_toNat (v : Word) : (fieldOfWord v).lsb.toNat = v.toNat % 2 ^ 5 ∧
    (fieldOfWord v).width.toNat = v.toNat / 2 ^ 8 % 2 ^ 6 := by
  simp only [fieldOfWord, BitVec.extractLsb'_toNat, Nat.shiftRight_eq_div_pow]
  simp

/-- A write that is accepted is read back from the same register. -/
theorem Cfg.read_of_write {c c' : Cfg} {r : CfgReg} {v : Word} (h : c.write r v = some c') :
    ∃ w, c'.read r = some w ∧ w.toNat = storedValue r v := by
  cases r
  case pincfg =>
    cases h
    refine ⟨_, rfl, ?_⟩
    simp only [storedValue, BitVec.toNat_setWidth]
    omega
  case statusaddr =>
    simp only [Cfg.write] at h
    split at h
    · cases h
    · next hv =>
      cases h
      refine ⟨_, rfl, ?_⟩
      simp only [storedValue, BitVec.toNat_setWidth]
      omega
  case field k =>
    simp only [Cfg.write] at h
    split at h
    · cases h
      refine ⟨_, rfl, ?_⟩
      simp [wordOfField_toNat, Cfg.field, fieldOfWord_toNat, storedValue]
    · cases h
  case status => cases h
  all_goals
    cases h
    exact ⟨_, rfl, rfl⟩

theorem cfgIndex_of_cfgRegOf {x : Byte} {r : CfgReg} (h : cfgRegOf x = some r) : cfgIndex r = x :=
  eq_of_beq (List.find?_some (p := fun r => cfgIndex r == x) h)

/-- The stored value by index, as the registers are laid out (`10_state.md` R29, R30). -/
theorem storedValue_of_index (r : CfgReg) (v : Word) (h : r ≠ .status) : storedValue r v =
    if (cfgIndex r).toNat = 0x00 then v.toNat % 8
    else if 0x20 ≤ (cfgIndex r).toNat then v.toNat % 2 ^ 5 + v.toNat / 2 ^ 8 % 2 ^ 6 * 2 ^ 8
    else v.toNat := by
  cases r
  case field k => cases k <;> rfl
  case status => exact absurd rfl h
  all_goals rfl

/-- SETCFG answers `OK` only where the index names a register and the register takes the value. -/
theorem State.setCfg_ok {s : State} {x : Byte} {v : Word}
    (h : (s.setCfg x v).out = s.out ++ [.evResp 0x0A .ok []]) :
    ∃ r c, cfgRegOf x = some r ∧ s.cfg.write r v = some c ∧
      s.setCfg x v = { s with cfg := c }.respond 0x0A .ok [] := by
  cases hb : (cfgRegOf x).bind fun r => s.cfg.write r v with
  | none => simp [State.setCfg, hb] at h
  | some c =>
    obtain ⟨r, hr, hc⟩ := Option.bind_eq_some_iff.1 hb
    refine ⟨r, c, hr, hc, ?_⟩
    simp only [State.setCfg, hb]
    rfl

/-- Settles O18: an accepted SETCFG is one `Cfg.write`, whose register then reads the stored value. -/
theorem setThenGetReadsBack : Obligations.SetThenGetReadsBack := by
  intro s t x v hq h hout
  cases h
  rw [State.whenIdle_idle _ _ s hq] at hout ⊢
  obtain ⟨r, c, hr, hc, ht⟩ := State.setCfg_ok hout
  obtain ⟨w, hw, hv⟩ := Cfg.read_of_write hc
  have hns : r ≠ .status := fun hs => by subst hs; cases hc
  refine ⟨byteOf w 3, byteOf w 2, byteOf w 1, byteOf w 0, ?_, ?_⟩
  · simp only [ht, exec, execGetcfg, hr, State.readCfg, State.respond_cfg, hw]
    rfl
  · rw [byteOf_sum, hv, storedValue_of_index r v hns, cfgIndex_of_cfgRegOf hr]

end Sys2Proof.Machine
end

section
/-! ## The reset values, the next table word, and the pins -/

namespace Sys2Proof.Machine

/-- Settles O1, register by register of the reset state. -/
theorem resetLeavesTheSpecifiedValues : Obligations.ResetLeavesTheSpecifiedValues := by
  unfold Obligations.ResetLeavesTheSpecifiedValues
  and_intros <;> rfl

/-- A command placed as a packet is decoded again and run. -/
theorem step_withFetchWord_command {s : State} {nbits w : Nat} {i : Instr}
    (h : decodeTableWord nbits w = some i) (hp : i.port = .command) :
    step (s.withFetchWord nbits w) = exec i s := by
  have hplace : s.withFetchWord nbits w = s.deliver (tableBytes nbits w) := by
    unfold State.withFetchWord
    rw [h]
    split
    · next heq => cases heq; cases hp
    · next heq => cases heq; cases hp
    · rfl
  have hdecode : decodeCommand (tableBytes nbits w) = .instr i := by
    unfold decodeTableWord at h
    split at h
    · next hd => cases h; exact hd
    · split at h
      · next hd =>
        cases h
        exact absurd (hp.symm.trans (decodeFrame_port hd)) nofun
      · cases h
  rw [hplace]
  simp only [step, State.deliver, takePacket, hdecode]

/-- Settles O4: a command goes through the agenda and the decoder, a frame through the boundary that sends it. -/
theorem fetchedWordIsRun : Obligations.FetchedWordIsRun := by
  intro s nbits w i h
  refine ⟨step_withFetchWord_command h, ?_, ?_⟩
  · rintro a v rfl
    simp only [State.withFetchWord, h]
    rfl
  · rintro a rfl
    simp only [State.withFetchWord, h]
    rfl

/-- Settles O57: each pin is read off its line, and the invariant gives the line. -/
theorem pinsFollowTheLines : Obligations.PinsFollowTheLines := by
  intro s h
  refine ⟨h.stepLow, ?_, fun hd => ?_, fun hd => ?_, fun hi => ?_, fun hi => ?_⟩
  · simp [State.csPin, h.csLow]
  · simp only [State.dirPin, hd, Cfg.dirpos]
  · simp only [State.dirPin, hd, Cfg.dirpos]
  · simp [State.enablePin, h.enabled, hi, Cfg.enact]
  · simp [State.enablePin, h.enabled, hi, Cfg.enact]

end Sys2Proof.Machine
end

section
/-! ## The chip register space and the reference peer

A register is four cells; a write to the reference peer changes those four alone (`20_memory.md` R40, R48). -/

namespace Sys2Proof.Machine

/-- Settles O39: read after write, and the canonical form of what is written. -/
theorem chipMemoryReadsBack : Obligations.ChipMemoryReadsBack := by
  intro m c b hm hc
  refine ⟨?_, fun d hd => ?_, Memory.wf_writeByte m c b hm hc⟩
  · rw [Memory.readByte_writeByte m c c b hm, if_pos rfl]
  · rw [Memory.readByte_writeByte m c d b hm, if_neg hd]

/-- The bytes of a register write lie in its four cells, most significant first. -/
theorem Memory.readByte_writeReg_cellOf (m : Memory) (a : Addr) (v : Word) {k : Nat} (h : m.wf = true) (hk : k < 4) :
    (m.writeReg a v).readByte (cellOf a k) = byteOf v (3 - k) := by
  rw [Memory.readByte_writeReg m a v _ h]
  match k, hk with
  | 0, _ | 1, _ | 2, _ | 3, _ => simp [cellOf]

/-- A register write leaves every cell outside the register as it was. -/
theorem Memory.readByte_writeReg_outside (m : Memory) (a : Addr) (v : Word) {c : Nat} (h : m.wf = true)
    (hc : c < cellOf a 0 ∨ cellOf a 3 < c) : (m.writeReg a v).readByte c = m.readByte c := by
  have hne : ∀ k, k < 4 → c ≠ cellOf a k := fun k hk => by
    simp only [cellOf] at hc ⊢
    omega
  rw [Memory.readByte_writeReg m a v c h, if_neg (hne 0 (by decide)), if_neg (hne 1 (by decide)),
    if_neg (hne 2 (by decide)), if_neg (hne 3 (by decide))]

/-- Settles O36: the transaction with the reference peer, and then the cells of the register written. -/
theorem referencePeerIsOneBehind : Obligations.ReferencePeerIsOneBehind := by
  intro s t a v o hwf hscript hmode
  refine ⟨fun h => ?_, fun h => ?_⟩
  · rw [State.transact_write_reference s a v hscript hmode] at h
    cases h
    refine ⟨⟨_, rfl, frameOf_payload _ _, rfl⟩, rfl, fun k hk => ?_, fun c hc => ?_⟩
    · have hcell := Memory.readByte_writeReg_cellOf s.peer.mem a v hwf hk
      rw [cellOf] at hcell
      rw [hcell, byteOf_toNat, show (256 : Nat) = 2 ^ 8 from rfl, ← Nat.pow_mul]
    · refine Memory.readByte_writeReg_outside s.peer.mem a v hwf ?_
      simp only [cellOf]
      omega
  · rw [State.transact_read_reference s a hscript hmode] at h
    cases h
    exact ⟨⟨_, rfl, frameOf_payload _ _, rfl⟩, rfl, rfl⟩

end Sys2Proof.Machine
end

section
/-! ## The configuration off `Idle`

No action of the sequencer writes the configuration, and of the commands only SETCFG does, which off `Idle` is refused
`Busy` (`20_memory.md` R53, `43_host_commands.md` R167). -/

namespace Sys2Proof.Machine

/-! ### Operations that leave the configuration as it was -/

section Kept

variable (s : State)

@[simp] theorem State.requestCancel_cfg : s.requestCancel.cfg = s.cfg := by
  unfold State.requestCancel
  split <;> rfl

@[simp] theorem State.transact_cfg (tx : Bytes5) : (s.transact tx).2.cfg = s.cfg := by
  rw [State.transact_frame]

@[simp] theorem State.confirm_cfg : s.confirm.cfg = s.cfg := by
  unfold State.confirm
  split <;> rfl

@[simp] theorem State.takeStatus_cfg (w : Word) : (s.takeStatus w).cfg = s.cfg := by
  simp only [State.takeStatus]
  split
  · rw [State.confirm_cfg]
  · rfl

@[simp] theorem State.finish_cfg : s.finish.cfg = s.cfg := by
  unfold State.finish
  split <;> rfl

@[simp] theorem State.cancelRun_cfg : s.cancelRun.cfg = s.cfg := by
  unfold State.cancelRun
  split <;> rfl

@[simp] theorem State.fwdStep_cfg (i : Nat) : (s.fwdStep i).cfg = s.cfg := by
  simp only [State.fwdStep]
  split
  · exact s.cancelRun_cfg
  · split
    · rfl
    · split
      · rfl
      · exact State.finish_cfg _

@[simp] theorem State.revStep_cfg (j : Nat) : (s.revStep j).cfg = s.cfg := by
  simp only [State.revStep]
  split
  · exact s.cancelRun_cfg
  · split
    · rfl
    · exact State.finish_cfg _

@[simp] theorem State.seekStep_cfg : s.seekStep.cfg = s.cfg := by
  unfold State.seekStep
  split
  · rfl
  · split <;> rfl

@[simp] theorem State.stepAction_cfg : s.stepAction.cfg = s.cfg := by
  unfold State.stepAction
  split
  · exact s.fwdStep_cfg _
  · exact s.revStep_cfg _
  · exact s.seekStep_cfg
  · rfl

@[simp] theorem State.afterWrite_cfg (o : TxnOutcome) : (s.afterWrite o).cfg = s.cfg := by
  unfold State.afterWrite
  split
  · split <;> rfl
  · rfl

@[simp] theorem State.afterRead_cfg (o : TxnOutcome) : (s.afterRead o).cfg = s.cfg := by
  unfold State.afterRead
  split
  · split <;> rfl
  · split <;> rfl
  · split <;> rfl
  · split
    · exact s.takeStatus_cfg _
    · rfl
  · rfl

end Kept

/-! ### Steps -/

/-- Off `Idle` every instruction leaves the configuration as it was: SETCFG is answered `Busy`. -/
theorem exec_cfg {i : Instr} {s t : State} (h : exec i s = .next t) (hq : s.seq ≠ .idle) : t.cfg = s.cfg := by
  cases i with
  | init | move | home | wreg | rreg | setcfg =>
    cases h
    rw [State.whenIdle_busy _ _ s hq, State.refuse_cfg]
  | decode | getpos | ismov => cases h; rfl
  | cancel => cases h; exact s.requestCancel_cfg
  | getcfg x =>
    simp only [exec, execGetcfg] at h
    split at h <;> cases h <;> rfl
  | wframe => cases h; rw [State.afterWrite_cfg, State.transact_cfg]
  | rframe => cases h; rw [State.afterRead_cfg, State.transact_cfg]

theorem act_cfg {s t : State} (h : act s = .next t) (hq : s.seq ≠ .idle) : t.cfg = s.cfg := by
  unfold act at h
  split at h
  · exact exec_cfg h hq
  · cases h
    exact s.stepAction_cfg

theorem takePacket_cfg {p : List Byte} {s t : State} (h : takePacket p s = .next t) (hq : s.seq ≠ .idle) :
    t.cfg = s.cfg := by
  unfold takePacket at h
  split at h
  · exact exec_cfg h hq
  · cases h
    rfl

/-- Settles O51, by what the step does: an action, a packet, or a change of the chip. -/
theorem configurationIsStableDuringAnOperation : Obligations.ConfigurationIsStableDuringAnOperation := by
  intro s t h hr hq
  rcases ha : s.agenda with _ | ⟨p | _ | ⟨a, v⟩ | _, rest⟩ <;> simp only [step, ha] at h
  · exact act_cfg h hq
  · exact takePacket_cfg (s := { s with agenda := rest }) h hq
  · exact act_cfg (s := { s with agenda := rest }) h hq
  · cases h
    rfl
  · exact absurd (by rw [ha]; rfl) hr

end Sys2Proof.Machine
end

section
/-! ## What taking a packet adds to the trace

A packet only answers, drives ENABLE or drives DIR: it waits for no time, sends no frame, and leaves the chip and
`position` alone (`20_memory.md` R44, R54, `43_host_commands.md` R160). -/

namespace Sys2Proof.Machine

/-- An event in which no time passes on STEP and nothing is sent on the bus. -/
def Event.Instant (e : Event) : Prop := e.isStep = false ∧ e.isTxn = false ∧ ∀ d, e ≠ .evPause d

theorem Event.instant_evEnable (b : Bool) : (Event.evEnable b).Instant := ⟨rfl, rfl, nofun⟩
theorem Event.instant_evDir (g : Sign) : (Event.evDir g).Instant := ⟨rfl, rfl, nofun⟩
theorem Event.instant_evResp (cmd : Byte) (code : Code) (p : List Byte) : (Event.evResp cmd code p).Instant :=
  ⟨rfl, rfl, nofun⟩

/-- From `s` to `t` the trace grew by instant events alone, and neither the chip nor `position` changed. -/
def State.Answers (s t : State) : Prop :=
  ∃ new : List Event, t.out = s.out ++ new ∧ (∀ e ∈ new, e.Instant) ∧ t.peer = s.peer ∧ t.position = s.position

namespace State.Answers

theorem refl (s : State) : s.Answers s := ⟨[], (List.append_nil _).symm, nofun, rfl, rfl⟩

section Commands

variable {s t : State} (h : s.Answers t)
include h

theorem emit {e : Event} (he : e.Instant) : s.Answers (t.emit e) := by
  obtain ⟨new, hout, hnew, hpeer, hpos⟩ := h
  refine ⟨new ++ [e], ?_, fun e' he' => ?_, hpeer, hpos⟩
  · rw [State.emit_out, hout, List.append_assoc]
  · rcases List.mem_append.1 he' with hmem | hmem
    · exact hnew e' hmem
    · exact List.mem_singleton.1 hmem ▸ he

theorem respond (cmd : Byte) (code : Code) (p : List Byte) : s.Answers (t.respond cmd code p) :=
  h.emit (Event.instant_evResp cmd code p)

theorem refuse (cmd : Byte) (code : Code) : s.Answers (t.refuse cmd code) := h.respond cmd code []

theorem driveDir (g : Sign) : s.Answers (t.driveDir g) := h.emit (Event.instant_evDir g)

theorem driveEnable (b : Bool) : s.Answers (t.driveEnable b) := h.emit (Event.instant_evEnable b)

theorem whenIdle (cmd : Byte) {run : State → State} (hrun : s.Answers (run t)) :
    s.Answers (t.whenIdle cmd run) := by
  unfold State.whenIdle
  split
  · exact hrun
  · exact h.refuse _ _

theorem whenInitialized (cmd : Byte) {run : State → State} (hrun : s.Answers (run t)) :
    s.Answers (t.whenInitialized cmd run) := by
  unfold State.whenInitialized
  split
  · exact hrun
  · exact h.refuse _ _

theorem initBlock : s.Answers t.initBlock := (h.driveEnable true).respond _ _ _

theorem requestCancel : s.Answers t.requestCancel := by
  unfold State.requestCancel
  split <;> exact h

theorem setCfg (x : Byte) (v : Word) : s.Answers (t.setCfg x v) := by
  unfold State.setCfg
  split
  · exact h.respond _ _ _
  · exact h.refuse _ _

theorem startMove (target d0 dm ovs : Word) : s.Answers (t.startMove target d0 dm ovs) := by
  simp only [State.startMove]
  split
  · split
    · exact h.respond _ _ _
    · split
      · exact h.driveDir _
      · exact h.refuse _ _
  · exact h.refuse _ _

theorem startHome (dir : Sign) (pred : Pred) : s.Answers (t.startHome dir pred) := by
  unfold State.startHome
  split
  · exact h.driveDir dir
  · exact h.refuse _ _

end Commands

end State.Answers

/-- A command only answers; the two wire frames are no commands. -/
theorem exec_answers {i : Instr} {s t : State} (h : exec i s = .next t) (hp : i.port = .command) : s.Answers t := by
  have h0 := State.Answers.refl s
  cases i with
  | init => cases h; exact h0.whenIdle _ h0.initBlock
  | move => cases h; exact h0.whenIdle _ (h0.whenInitialized _ (h0.startMove ..))
  | home => cases h; exact h0.whenIdle _ (h0.whenInitialized _ (h0.startHome ..))
  | wreg | rreg => cases h; exact h0.whenIdle _ (h0.whenInitialized _ h0)
  | decode | getpos | ismov => cases h; exact h0.respond _ _ _
  | cancel => cases h; exact h0.requestCancel.respond _ _ _
  | setcfg x v => cases h; exact h0.whenIdle _ (h0.setCfg x v)
  | getcfg x =>
    simp only [exec, execGetcfg] at h
    split at h <;> cases h
    · exact h0.respond _ _ _
    · exact h0.refuse _ _
  | wframe | rframe => cases hp

theorem takePacket_answers {p : List Byte} {s t : State} (h : takePacket p s = .next t) : s.Answers t := by
  unfold takePacket at h
  split at h
  · next i hi =>
    obtain ⟨o, ops, -, ho⟩ := decodeCommand_instr hi
    exact exec_answers h (decodeOperands_instr ho).1
  · cases h
    exact (State.Answers.refl s).refuse _ _

/-- Settles O52: the decoder of the command port yields commands alone, and a command only answers. -/
theorem packetsNeverPulseOrTransact : Obligations.PacketsNeverPulseOrTransact := by
  intro s t p rest ha h
  simp only [step, ha] at h
  exact takePacket_answers (s := { s with agenda := rest }) h

end Sys2Proof.Machine
end

section
/-! ## Encoding and decoding are inverse

One lemma per direction and per port; a command packet is then legal exactly when it is the encoding of a command
(`30_encoding.md` R61, R62, R71 to R74). -/

namespace Sys2Proof

/-- Settles O9, instruction by instruction of the round-trip laws. -/
theorem decodeOfEncodeIsTheInstruction : Obligations.DecodeOfEncodeIsTheInstruction := by
  intro i
  cases i with
  | init => exact Laws.RoundTrip.init
  | move t d0 dm ovs => exact Laws.RoundTrip.move t d0 dm ovs
  | home dir pred => exact Laws.RoundTrip.home dir pred
  | wreg a v => exact Laws.RoundTrip.wreg a v
  | rreg a => exact Laws.RoundTrip.rreg a
  | decode w => exact Laws.RoundTrip.decode w
  | getpos => exact Laws.RoundTrip.getpos
  | ismov => exact Laws.RoundTrip.ismov
  | cancel => exact Laws.RoundTrip.cancel
  | setcfg x v => exact Laws.RoundTrip.setcfg x v
  | getcfg x => exact Laws.RoundTrip.getcfg x
  | wframe a v => exact Laws.RoundTrip.wframe a v
  | rframe a => exact Laws.RoundTrip.rframe a

/-! ### What is decoded is encoded by the same bytes -/

/-- A byte whose top bit is clear is an address behind a zero bit (R72, R74). -/
theorem address_header {b : Byte} (h : b.getLsbD 7 ≠ true) : 0#1 ++ b.setWidth 7 = b := by
  have hb := header_eq b
  rwa [if_neg h] at hb

/-- A flags byte whose reserved bits are clear is the flags byte of its direction and predicate (R73, R74). -/
theorem homeFlags_of_bits {f : Byte} (h : f.extractLsb' 2 6 = 0) :
    homeFlags (signOfBit (f.getLsbD 0)) (predOfBit (f.getLsbD 1)) = f := by
  revert f
  decide

/-- The operand bytes of a command stand behind its opcode byte in its encoding. -/
theorem encode_of_decodeOperands {o : Opcode} {ops : List Byte} {i : Instr} (h : decodeOperands o ops = .instr i) :
    encode i = o.byte :: ops := by
  cases o <;>
    simp only [decodeOperands, decodeNone, decodeMove, decodeHome, decodeWreg, decodeRreg, decodeDecode, decodeSetcfg,
      decodeGetcfg] at h
  case home =>
    split at h
    · split at h <;> cases h
      next hf => rw [encode, homeFlags_of_bits hf, Opcode.byte]
    · cases h
  case wreg | rreg =>
    split at h
    · split at h <;> cases h
      next ha => simp only [encode, address_header ha, bytesBe32_be32, Opcode.byte]
    · cases h
  all_goals
    split at h <;> cases h
    simp only [encode, bytesBe32_be32, Opcode.byte, List.cons_append, List.nil_append]

theorem encode_of_decodeCommand {p : List Byte} {i : Instr} (h : decodeCommand p = .instr i) : encode i = p := by
  obtain ⟨o, ops, rfl, ho⟩ := decodeCommand_instr h
  exact encode_of_decodeOperands ho

theorem decodeCommand_port {p : List Byte} {i : Instr} (h : decodeCommand p = .instr i) : i.port = .command := by
  obtain ⟨o, ops, -, ho⟩ := decodeCommand_instr h
  exact (decodeOperands_instr ho).1

theorem encode_of_decodeFrame {f : List Byte} {i : Instr} (h : decodeFrame f = .instr i) : encode i = f := by
  unfold decodeFrame at h
  split at h
  · next b d3 d2 d1 d0 =>
    have hb := header_eq b
    obtain ⟨h3, h2, h1, h0⟩ := byteOf_be32 d3 d2 d1 d0
    split at h
    · next hw =>
      cases h
      rw [if_pos hw] at hb
      simp only [encode, writeFrame, frameOf, Bytes5.toList, hb, h3, h2, h1, h0]
    · next hr =>
      split at h <;> cases h
      next hz =>
        rw [if_neg hr] at hb
        rw [hz] at h3 h2 h1 h0
        simp only [encode, readFrame, frameOf, Bytes5.toList, hb, h3, h2, h1, h0]
  · cases h

/-- Settles O10, port by port. -/
theorem encodeOfDecodeIsTheBytes : Obligations.EncodeOfDecodeIsTheBytes := by
  intro port bytes i h
  cases port with
  | command => exact ⟨encode_of_decodeCommand h, decodeCommand_port h⟩
  | wire => exact ⟨encode_of_decodeFrame h, decodeFrame_port h⟩

/-! ### The legal packets are the encodings of the commands -/

/-- The length of R71 is that of the command the opcode byte names, and there is none for an unassigned byte. -/
theorem packetLength_eq (b : Byte) : packetLength b = (opcodeOf b).map Opcode.length := by
  revert b
  decide

/-- The encoding of a command is a legal packet (R74). -/
theorem packetLegal_encode {i : Instr} (h : i.port = .command) : packetLegal (encode i) = true := by
  have haddr : ∀ a : Addr, (0#1 ++ a : Byte).toNat < 128 := by decide
  cases i with
  | home dir pred => cases dir <;> cases pred <;> decide
  | wreg a v | rreg a =>
    simpa [packetLegal, opcodeAssigned, lengthMatches, reservedBitsClear, packetLength, encode, bytesBe32] using haddr a
  | wframe | rframe => cases h
  | _ => rfl

theorem packetLegal_of_decodeCommand {p : List Byte} {i : Instr} (h : decodeCommand p = .instr i) :
    packetLegal p = true := by
  rw [← encode_of_decodeCommand h]
  exact packetLegal_encode (decodeCommand_port h)

/-- The operand bytes of a legal packet decode. -/
theorem decodeOperands_of_legal {o : Opcode} {ops : List Byte} (hlen : ops.length + 1 = o.length)
    (hbits : reservedBitsClear (o.byte :: ops) = true) : ∃ i, decodeOperands o ops = .instr i := by
  have hflags : ∀ f : Byte, f.toNat < 4 → f.extractLsb' 2 6 = 0 := by decide
  have haddr : ∀ a : Byte, a.toNat < 128 → a.getLsbD 7 ≠ true := by decide
  match o, ops, hlen with
  | .init, [], _ | .getpos, [], _ | .ismov, [], _ | .cancel, [], _ | .getcfg, [_], _ | .decode, [_, _, _, _], _
  | .setcfg, [_, _, _, _, _], _ | .move, [_, _, _, _, _, _, _, _, _, _, _, _, _, _, _, _], _ => exact ⟨_, rfl⟩
  | .home, [f], _ =>
    have hf : f.toNat < 4 := of_decide_eq_true hbits
    exact ⟨_, if_pos (hflags f hf)⟩
  | .wreg, [a, _, _, _, _], _ | .rreg, [a], _ =>
    have ha : a.toNat < 128 := of_decide_eq_true hbits
    exact ⟨_, if_neg (haddr a ha)⟩

/-- A legal packet decodes. -/
theorem decodeCommand_of_legal {p : List Byte} (h : packetLegal p = true) : ∃ i, decodeCommand p = .instr i := by
  simp only [packetLegal, Bool.and_eq_true] at h
  obtain ⟨⟨-, hlen⟩, hbits⟩ := h
  cases p with
  | nil => cases hlen
  | cons b ops =>
    simp only [lengthMatches, beq_iff_eq, packetLength_eq, Option.map_eq_some_iff] at hlen
    obtain ⟨o, ho, hlen⟩ := hlen
    simp only [decodeCommand, ho]
    exact decodeOperands_of_legal hlen.symm (by rw [byte_of_opcodeOf ho]; exact hbits)

/-- Settles O7: a packet decodes exactly when it is the encoding of a command, and these are the legal ones. -/
theorem decoderAcceptsExactlyLegalPackets : Obligations.DecoderAcceptsExactlyLegalPackets := by
  intro p
  refine ⟨⟨fun ⟨_, h⟩ => packetLegal_of_decodeCommand h, decodeCommand_of_legal⟩, fun i h => ?_⟩
  exact ⟨decodeCommand_port h, by rw [encode_of_decodeCommand h]⟩

/-! ### Words written out from the spec -/

/-- A legal packet of five bytes is a `DECODE` (R71). -/
theorem opcode_of_packetLength_five {b : Byte} (h : packetLength b = some 5) : b = 0x06 := by
  revert b
  decide

theorem header_ne_six {a : Addr} (h : a.toNat ≠ 0x06) : (0#1 ++ a : Byte) ≠ 0x06 := by
  revert a
  decide

/-- The table word of a read frame, byte by byte. -/
theorem tableBytes_readFrame (a : Addr) : tableBytes 40 (a.toNat * 2 ^ 32) = encode (.rframe a) := by
  revert a
  decide

/-- The table word of a read frame is no packet, unless it is that of address 6, whose byte is `DECODE`'s opcode. -/
theorem decodeTableWord_readFrame {a : Addr} (ha : a.toNat ≠ 0x06) :
    decodeTableWord 40 (a.toNat * 2 ^ 32) = some (.rframe a) := by
  have hframe : decodeFrame (encode (.rframe a)) = .instr (.rframe a) := Laws.RoundTrip.rframe a
  rw [decodeTableWord, tableBytes_readFrame]
  split
  · next i hi =>
    have hlegal := packetLegal_of_decodeCommand hi
    simp only [packetLegal, Bool.and_eq_true] at hlegal
    obtain ⟨⟨-, hlen⟩, -⟩ := hlegal
    exact absurd (opcode_of_packetLength_five (eq_of_beq hlen)) (header_ne_six ha)
  · rw [hframe]

/-- Settles O11: the eight words are computed; a read frame's table word is no packet. -/
theorem writtenOutWordsDecode : Obligations.WrittenOutWordsDecode := by
  refine ⟨?_, ?_, ?_, ?_, ?_, ?_, ?_, ?_, fun a ha => decodeTableWord_readFrame ha⟩ <;> decide

end Sys2Proof
end

section
/-! ## A wire frame served by the operation that waits for it

The frame's bytes, the transaction that sends it, and what WREG or RREG does with the outcome (`30_encoding.md` R61 to
R63, `41_register_client.md` R126, R127). -/

namespace Sys2Proof

/-- A byte of a word as a quotient of its number (`00_scope.md` R8). -/
theorem byteOf_eq_ofNat (v : Word) (k : Nat) : byteOf v k = BitVec.ofNat 8 (v.toNat / 256 ^ k) :=
  BitVec.eq_of_toNat_eq (by rw [byteOf_toNat, BitVec.toNat_ofNat])

/-- R61: the bytes of a write frame. -/
theorem writeFrame_eq (a : Addr) (v : Word) :
    writeFrame a v = ⟨BitVec.ofNat 8 (128 + a.toNat), BitVec.ofNat 8 (v.toNat / 2 ^ 24),
      BitVec.ofNat 8 (v.toNat / 2 ^ 16), BitVec.ofNat 8 (v.toNat / 2 ^ 8), BitVec.ofNat 8 v.toNat⟩ := by
  have hheader : ∀ a : Addr, (1#1 ++ a : Byte) = BitVec.ofNat 8 (128 + a.toNat) := by decide
  simp only [writeFrame, frameOf, hheader, byteOf_eq_ofNat, Nat.pow_zero, Nat.div_one]
  rfl

/-- R62: the bytes of a read frame. -/
theorem readFrame_eq (a : Addr) : readFrame a = ⟨BitVec.ofNat 8 a.toNat, 0, 0, 0, 0⟩ := by
  revert a
  decide

/-- R63: the payload of a reply is the number of its bytes 1 to 4. -/
theorem payload_eq_ofNat (rx : Bytes5) : rx.payload =
    BitVec.ofNat 32 (rx.b1.toNat * 2 ^ 24 + rx.b2.toNat * 2 ^ 16 + rx.b3.toNat * 2 ^ 8 + rx.b4.toNat) := by
  rw [← be32_toNat, BitVec.ofNat_toNat, BitVec.setWidth_eq, Bytes5.payload]

end Sys2Proof

namespace Sys2Proof.Machine

/-! ### A transaction leaves the boundary and the operation as they were -/

theorem State.transact_op (tx : Bytes5) (s : State) : (s.transact tx).2.op = s.op := by rw [State.transact_frame]

theorem State.transact_seq (tx : Bytes5) (s : State) : (s.transact tx).2.seq = s.seq := by rw [State.transact_frame]

/-! ### What the outcome does at each boundary -/

theorem State.afterWrite_ok {s : State} (h : s.seq = .wrT) (rx : Bytes5) :
    s.afterWrite (.ok rx) = s.complete .ok [] := by
  simp only [State.afterWrite, h]

theorem State.afterWrite_fail {s : State} (h : s.seq = .wrT) : s.afterWrite .fail = s.complete .busError [] := by
  simp only [State.afterWrite, h]
  rfl

theorem State.afterWrite_unawaited {s : State} (h : s.seq ≠ .wrT) (o : TxnOutcome) : s.afterWrite o = s := by
  unfold State.afterWrite
  split
  · next hq => exact absurd hq h
  · rfl

theorem State.afterRead_first {s : State} (h : s.seq = .rdT1) (rx : Bytes5) :
    s.afterRead (.ok rx) = { s with seq := .rdT2 } := by
  simp only [State.afterRead, h]

theorem State.afterRead_second {s : State} (h : s.seq = .rdT2) (rx : Bytes5) :
    s.afterRead (.ok rx) = s.completeRead rx.payload := by
  simp only [State.afterRead, h]

theorem State.afterRead_fail {s : State} (h : s.seq = .rdT1 ∨ s.seq = .rdT2) :
    s.afterRead .fail = s.complete .busError [] := by
  rcases h with h | h <;> simp only [State.afterRead, h] <;> rfl

theorem State.afterRead_unawaited {s : State} (h1 : s.seq ≠ .rdT1) (h2 : s.seq ≠ .rdT2) (h3 : s.seq ≠ .seekT1)
    (h4 : s.seq ≠ .seekT2) (o : TxnOutcome) : s.afterRead o = s := by
  unfold State.afterRead
  split
  · next hq => exact absurd hq h1
  · next hq => exact absurd hq h2
  · next hq => exact absurd hq h3
  · next hq => exact absurd hq h4
  · rfl

theorem exec_wframe {s t : State} {a : Addr} {v : Word} {o : TxnOutcome}
    (h : s.transact (writeFrame a v) = (o, t)) : exec (.wframe a v) s = .next (t.afterWrite o) := by
  simp only [exec, execWframe, h]

theorem exec_rframe {s t : State} {a : Addr} {o : TxnOutcome} (h : s.transact (readFrame a) = (o, t)) :
    exec (.rframe a) s = .next (t.afterRead o) := by
  simp only [exec, execRframe, h]

/-- Settles O33: the transaction keeps the boundary, and the boundary says what the outcome does. -/
theorem writeFrameEndsTheWreg : Obligations.WriteFrameEndsTheWreg := by
  intro s t a v o h
  rw [← writeFrame_eq] at h
  have hseq : t.seq = s.seq := by simpa only [h] using State.transact_seq (writeFrame a v) s
  have hop : t.op = s.op := by simpa only [h] using State.transact_op (writeFrame a v) s
  rw [exec_wframe h]
  refine ⟨?_, ?_, ?_⟩
  · rintro hw ho rx rfl
    rw [State.afterWrite_ok (hseq.trans hw), State.complete, hop, ho]
    rfl
  · rintro hw ho rfl
    rw [State.afterWrite_fail (hseq.trans hw), State.complete, hop, ho]
    rfl
  · intro hw
    rw [State.afterWrite_unawaited (hseq ▸ hw)]

/-- Settles O34: as for the write frame, with the second reply's bytes 1 to 4 as the result. -/
theorem readFrameServesTheRreg : Obligations.ReadFrameServesTheRreg := by
  intro s t a o h
  rw [← readFrame_eq] at h
  have hseq : t.seq = s.seq := by simpa only [h] using State.transact_seq (readFrame a) s
  have hop : t.op = s.op := by simpa only [h] using State.transact_op (readFrame a) s
  rw [exec_rframe h]
  refine ⟨?_, ?_, ?_, ?_⟩
  · rintro rx - hr rfl
    rw [State.afterRead_first (hseq.trans hr)]
  · rintro rx ho hr rfl w
    have hw : BitVec.ofNat 32 w = rx.payload := (payload_eq_ofNat rx).symm
    have hbytes : bytesBe32 rx.payload = [rx.b1, rx.b2, rx.b3, rx.b4] := bytesBe32_be32 _ _ _ _
    rw [hw, State.afterRead_second (hseq.trans hr), State.completeRead, hbytes, State.complete]
    simp only [hop, ho]
    rfl
  · rintro ho hr rfl
    rw [State.afterRead_fail (hseq.symm ▸ hr), State.complete, hop, ho]
    rfl
  · intro h1 h2 h3 h4
    rw [State.afterRead_unawaited (hseq ▸ h1) (hseq ▸ h2) (hseq ▸ h3) (hseq ▸ h4)]

/-! ### A RREG from its packet to its answer -/

/-- The state of O59: a RREG delivered at `s`, with the replies to its two transactions settled. -/
def State.withReadReplies (s : State) (a : Addr) (first second : Bytes5) (more : List PeerEntry) : State :=
  { s with
    agenda := [.packet (encode (.rreg a)), .act, .act],
    peer := { s.peer with script := .answer (.ok first) :: .answer (.ok second) :: more } }

theorem exec_rreg {s : State} (a : Addr) (hq : s.seq = .idle) (hi : s.initialized = true) :
    exec (.rreg a) s = .next (s.startRreg a) := by
  simp only [exec, execRreg, State.whenIdle_idle _ _ s hq, State.whenInitialized_on _ _ s hi]

/-- The first transaction of a RREG uses up one reply and keeps nothing else of it but the latch of received bytes. -/
theorem act_read_first {s : State} {rx : Bytes5} {rest : List PeerEntry} (hq : s.seq = .rdT1)
    (hscript : s.peer.script = .answer (.ok rx) :: rest) : ∃ t, act s = .next t ∧ t.seq = .rdT2 ∧ t.op = s.op ∧
      t.agenda = s.agenda ∧ t.peer.script = rest := by
  rw [act_read s (.inl hq), State.transact_scripted _ s _ rest hscript, State.afterRead_first (by exact hq)]
  exact ⟨_, rfl, rfl, rfl, rfl, rfl⟩

/-- The second transaction of a RREG answers the payload of its reply. -/
theorem act_read_second {s : State} {rx : Bytes5} {rest : List PeerEntry} (hq : s.seq = .rdT2)
    (hscript : s.peer.script = .answer (.ok rx) :: rest) : ∃ t, act s = .next t ∧ t.bus.result = rx.payload ∧
      t.out.getLast? = some (.evResp (opcodeOfOp s.op) .ok (bytesBe32 rx.payload)) := by
  rw [act_read s (.inr hq), State.transact_scripted _ s _ rest hscript, State.afterRead_second (by exact hq)]
  exact ⟨_, rfl, rfl, List.getLast?_concat⟩

/-- A RREG whose two replies are settled answers the payload of the second. -/
theorem run_withReadReplies {s : State} (a : Addr) (first second : Bytes5) (more : List PeerEntry)
    (hq : s.seq = .idle) (hi : s.initialized = true) :
    ∃ u, Host.Core.run Sys2Proof.core 3 (s.withReadReplies a first second more) = .next u ∧
      u.bus.result = second.payload ∧
      u.out.getLast? = some (.evResp 0x05 .ok (bytesBe32 second.payload)) := by
  have h1 : step (s.withReadReplies a first second more) = .next
      ({ s.withReadReplies a first second more with agenda := [.act, .act] }.startRreg a) :=
    (step_packet _ (.rreg a) _ rfl rfl).trans (exec_rreg a hq hi)
  obtain ⟨t, ht, hseq, hop, hagenda, hscript⟩ := act_read_first
    (s := { { s.withReadReplies a first second more with agenda := [.act, .act] }.startRreg a with agenda := [.act] })
    rfl rfl
  obtain ⟨u, hu, hresult, hlast⟩ := act_read_second (s := { t with agenda := [] }) hseq hscript
  refine ⟨u, ?_, hresult, ?_⟩
  · rw [run_succ 2 h1, run_succ 1 ((step_act _ _ rfl).trans ht), run_succ 0 ((step_act _ _ hagenda).trans hu), run_zero]
  · rw [hlast, show t.op = .opRreg from hop]
    rfl

/-- Settles O59: the answer of a RREG is a function of bytes 1 to 4 of the second reply. -/
theorem discardedReplyBytesNeverMatter : Obligations.DiscardedReplyBytesNeverMatter := by
  intro s a r1 r1' r2 x more hq hi
  obtain ⟨u, hu, hresult, hlast⟩ := run_withReadReplies a r1 r2 more hq hi
  obtain ⟨u', hu', hresult', hlast'⟩ := run_withReadReplies a r1' { r2 with b0 := x } more hq hi
  refine ⟨u, u', hu, hu', hresult.trans hresult'.symm, hlast.trans hlast'.symm, ?_⟩
  rw [hlast, Bytes5.payload, bytesBe32_be32]

end Sys2Proof.Machine
end

section
/-! ## Responses sent and owed

The responses sent and the one an operation in progress still owes are counted together (`30_encoding.md` R75). A
command adds one to the count: it answers at once, or it becomes the operation in progress. While an operation is in
progress an action adds none: it emits no response, or it ends the operation with one. -/

namespace Sys2Proof.Machine

/-- The responses sent and owed together. -/
def State.sentOrOwed (s : State) : Nat := respCount s.out + s.owed

namespace State

/-! ### The trace -/

theorem sentOrOwed_emit {e : Event} (he : e.isResp = false) (s : State) : (s.emit e).sentOrOwed = s.sentOrOwed := by
  have hout : respCount (s.out ++ [e]) = respCount s.out := by simp [respCount, he]
  exact congrArg (· + s.owed) hout

theorem sentOrOwed_respond (cmd : Byte) (code : Code) (p : List Byte) (s : State) :
    (s.respond cmd code p).sentOrOwed = s.sentOrOwed + 1 := by
  simp only [sentOrOwed, respCount, owed, respond_out, respond_op, List.countP_append]
  exact Nat.add_right_comm ..

theorem sentOrOwed_refuse (cmd : Byte) (code : Code) (s : State) :
    (s.refuse cmd code).sentOrOwed = s.sentOrOwed + 1 := sentOrOwed_respond cmd code [] s

/-- The response that ends an operation is the one it owed. -/
theorem sentOrOwed_complete {s : State} (h : s.op ≠ .opNone) (code : Code) (p : List Byte) :
    (s.complete code p).sentOrOwed = s.sentOrOwed := by
  simp [sentOrOwed, respCount, owed, List.countP_append, h, Event.isResp]

/-- An operation that starts with an event other than a response owes one response. -/
theorem sentOrOwed_start {s t : State} (hs : s.op = .opNone) (ht : t.op ≠ .opNone)
    (hout : respCount t.out = respCount s.out) : t.sentOrOwed = s.sentOrOwed + 1 := by
  simp [sentOrOwed, owed, hs, ht, hout]

theorem sentOrOwed_transact (tx : Bytes5) (s : State) : (s.transact tx).2.sentOrOwed = s.sentOrOwed := by
  rw [transact_frame]
  refine sentOrOwed_emit (e := txnEvent tx (s.transact tx).1) ?_ s
  cases (s.transact tx).1 <;> rfl

theorem sentOrOwed_reverse (s : State) : s.reverse.sentOrOwed = s.sentOrOwed :=
  (sentOrOwed_emit (e := .evPause s.cfg.revpause.toNat) rfl _).trans
    (sentOrOwed_emit (e := .evDir (signFlip s.prof.sign)) rfl s)

/-! ### Actions of an operation in progress add none -/

section Running

variable {s : State} (h : s.op ≠ .opNone)
include h

theorem sentOrOwed_homeZero : s.homeZero.sentOrOwed = s.sentOrOwed :=
  sentOrOwed_complete (s := { s with hstate := .hZeroed, position := 0, isMoving := false }) h .ok []

theorem sentOrOwed_homeAbort (code : Code) : (s.homeAbort code).sentOrOwed = s.sentOrOwed :=
  sentOrOwed_complete (s := s.homeCleanUp) h code []

theorem sentOrOwed_finish : s.finish.sentOrOwed = s.sentOrOwed := by
  unfold finish
  split
  · exact sentOrOwed_complete (s := { s with position := s.req.target, isMoving := false }) h .ok []
  · exact sentOrOwed_homeZero h

theorem sentOrOwed_cancelRun : s.cancelRun.sentOrOwed = s.sentOrOwed := by
  unfold cancelRun
  split
  · exact sentOrOwed_complete (s := s.moveCleanUp) h .cancelled []
  · exact sentOrOwed_homeAbort h .cancelled

theorem sentOrOwed_fwdStep (i : Nat) : (s.fwdStep i).sentOrOwed = s.sentOrOwed := by
  have hpulse : ((s.pulse (s.prof.delay i)).countStep 1).sentOrOwed = s.sentOrOwed := sentOrOwed_emit rfl s
  simp only [fwdStep]
  split
  · exact sentOrOwed_cancelRun h
  · split
    · exact hpulse
    · split
      · exact (sentOrOwed_reverse _).trans hpulse
      · exact (sentOrOwed_finish (by exact h)).trans hpulse

theorem sentOrOwed_revStep (j : Nat) : (s.revStep j).sentOrOwed = s.sentOrOwed := by
  have hpulse : ((s.pulse (s.prof.dm.toNat : Rat)).countStep (-1)).sentOrOwed = s.sentOrOwed := sentOrOwed_emit rfl s
  simp only [revStep]
  split
  · exact sentOrOwed_cancelRun h
  · split
    · exact hpulse
    · exact (sentOrOwed_finish (by exact h)).trans hpulse

theorem sentOrOwed_seekStep : s.seekStep.sentOrOwed = s.sentOrOwed := by
  unfold seekStep
  split
  · exact sentOrOwed_homeAbort h .cancelled
  · split
    · exact sentOrOwed_homeAbort h .homingTimeout
    · exact sentOrOwed_emit (e := .evStep (s.cfg.seekdelay.toNat : Rat)) rfl s

theorem sentOrOwed_confirm : s.confirm.sentOrOwed = s.sentOrOwed := by
  unfold confirm
  split
  · exact sentOrOwed_homeZero (s := { s with hstate := .hConfirmed }) h
  · exact sentOrOwed_emit (e := .evDir (signFlip s.hom.sign)) rfl s

theorem sentOrOwed_takeStatus (w : Word) : (s.takeStatus w).sentOrOwed = s.sentOrOwed := by
  simp only [takeStatus]
  split
  · exact sentOrOwed_confirm
      (s := { s with bus := { s.bus with result := w }, hom := { s.hom with c := s.debounced w } }) h
  · rfl

theorem sentOrOwed_afterWrite (o : TxnOutcome) : (s.afterWrite o).sentOrOwed = s.sentOrOwed := by
  unfold afterWrite
  split
  · split <;> exact sentOrOwed_complete h _ _
  · rfl

theorem sentOrOwed_afterRead (o : TxnOutcome) : (s.afterRead o).sentOrOwed = s.sentOrOwed := by
  unfold afterRead
  split
  · split
    · rfl
    · exact sentOrOwed_complete h _ _
  · split
    · next rx => exact sentOrOwed_complete (s := { s with bus := { s.bus with result := rx.payload } }) h _ _
    · exact sentOrOwed_complete h _ _
  · split
    · rfl
    · exact sentOrOwed_homeAbort h .busError
  · split
    · exact sentOrOwed_takeStatus h _
    · exact sentOrOwed_homeAbort h .busError
  · rfl

end Running

end State

/-- An action of the sequencer adds none to the responses sent and owed: at `Idle` it does nothing. -/
theorem sentOrOwed_act {s t : State} (hidle : s.op = .opNone → s.seq = .idle) (h : act s = .next t) :
    t.sentOrOwed = s.sentOrOwed := by
  by_cases hop : s.op = .opNone
  · rw [act_idle s (hidle hop)] at h
    cases h
    rfl
  · have hsent : ∀ tx, (s.transact tx).2.op ≠ .opNone := fun tx => by rwa [State.transact_frame]
    unfold act at h
    split at h
    · next i hi =>
      unfold State.pendingFrame at hi
      split at hi <;> cases hi <;> cases h
      · exact (State.sentOrOwed_afterWrite (hsent _) _).trans (State.sentOrOwed_transact _ s)
      all_goals exact (State.sentOrOwed_afterRead (hsent _) _).trans (State.sentOrOwed_transact _ s)
    · cases h
      unfold State.stepAction
      split
      · exact State.sentOrOwed_fwdStep hop _
      · exact State.sentOrOwed_revStep hop _
      · exact State.sentOrOwed_seekStep hop
      · rfl

/-! ### Commands add one -/

theorem State.sentOrOwed_whenIdle {s : State} (cmd : Byte) {run : State → State}
    (h : s.seq = .idle → (run s).sentOrOwed = s.sentOrOwed + 1) :
    (s.whenIdle cmd run).sentOrOwed = s.sentOrOwed + 1 := by
  unfold State.whenIdle
  split
  · next hq => exact h hq
  · exact State.sentOrOwed_refuse cmd .busy s

theorem State.sentOrOwed_whenInitialized {s : State} (cmd : Byte) {run : State → State}
    (h : (run s).sentOrOwed = s.sentOrOwed + 1) :
    (s.whenInitialized cmd run).sentOrOwed = s.sentOrOwed + 1 := by
  unfold State.whenInitialized
  split
  · exact h
  · exact State.sentOrOwed_refuse cmd .notInitialized s

theorem State.sentOrOwed_initBlock (s : State) : s.initBlock.sentOrOwed = s.sentOrOwed + 1 :=
  (State.sentOrOwed_respond _ _ _ _).trans (congrArg (· + 1) (State.sentOrOwed_emit (e := .evEnable true) rfl s))

theorem State.sentOrOwed_setCfg (x : Byte) (v : Word) (s : State) :
    (s.setCfg x v).sentOrOwed = s.sentOrOwed + 1 := by
  unfold State.setCfg
  split
  · exact State.sentOrOwed_respond _ _ _ _
  · exact State.sentOrOwed_refuse _ _ s

theorem State.sentOrOwed_requestCancel (s : State) : s.requestCancel.sentOrOwed = s.sentOrOwed := by
  unfold State.requestCancel
  split <;> rfl

theorem State.sentOrOwed_startMove {s : State} (h : s.op = .opNone) (target d0 dm ovs : Word) :
    (s.startMove target d0 dm ovs).sentOrOwed = s.sentOrOwed + 1 := by
  simp only [State.startMove]
  split
  · split
    · exact State.sentOrOwed_respond _ _ _ s
    · split
      · exact State.sentOrOwed_start h nofun (by simp [State.acceptMove, respCount, Event.isResp])
      · exact State.sentOrOwed_refuse _ _ s
  · exact State.sentOrOwed_refuse _ _ s

theorem State.sentOrOwed_startHome {s : State} (h : s.op = .opNone) (dir : Sign) (pred : Pred) :
    (s.startHome dir pred).sentOrOwed = s.sentOrOwed + 1 := by
  unfold State.startHome
  split
  · exact State.sentOrOwed_start h nofun (by simp [respCount, Event.isResp])
  · exact State.sentOrOwed_refuse _ _ s

/-- A command adds one to the responses sent and owed. -/
theorem sentOrOwed_exec {i : Instr} {s t : State} (hidle : s.seq = .idle → s.op = .opNone) (hp : i.port = .command)
    (h : exec i s = .next t) : t.sentOrOwed = s.sentOrOwed + 1 := by
  have operation : ∀ (cmd : Byte) {run : State → State}, (s.op = .opNone → (run s).sentOrOwed = s.sentOrOwed + 1) →
      (s.whenIdle cmd (State.whenInitialized cmd run)).sentOrOwed = s.sentOrOwed + 1 := fun cmd _ hrun =>
    State.sentOrOwed_whenIdle cmd fun hq => State.sentOrOwed_whenInitialized cmd (hrun (hidle hq))
  cases i with
  | init => cases h; exact State.sentOrOwed_whenIdle _ fun _ => State.sentOrOwed_initBlock s
  | move => cases h; exact operation _ fun ho => State.sentOrOwed_startMove ho ..
  | home => cases h; exact operation _ fun ho => State.sentOrOwed_startHome ho ..
  | wreg | rreg => cases h; exact operation _ fun ho => State.sentOrOwed_start ho nofun rfl
  | decode | getpos | ismov => cases h; exact State.sentOrOwed_respond _ _ _ s
  | cancel =>
    cases h
    rw [State.sentOrOwed_respond, State.sentOrOwed_requestCancel]
  | setcfg x v => cases h; exact State.sentOrOwed_whenIdle _ fun _ => State.sentOrOwed_setCfg x v s
  | getcfg x =>
    simp only [exec, execGetcfg] at h
    split at h <;> cases h
    · exact State.sentOrOwed_respond _ _ _ s
    · exact State.sentOrOwed_refuse _ _ s
  | wframe | rframe => cases hp

/-- A packet, legal or not, adds one to the responses sent and owed. -/
theorem sentOrOwed_takePacket {p : List Byte} {s t : State} (hidle : s.seq = .idle → s.op = .opNone)
    (h : takePacket p s = .next t) : t.sentOrOwed = s.sentOrOwed + 1 := by
  unfold takePacket at h
  split at h
  · next i hi =>
    exact sentOrOwed_exec hidle (decodeCommand_port hi) h
  · cases h
    exact State.sentOrOwed_refuse _ _ s

/-- Settles O49: a packet adds one to the responses sent and owed, an action or a change of the chip none. -/
theorem oneResponsePerCommand : Obligations.OneResponsePerCommand := by
  intro s t hinv h
  refine ⟨fun p rest ha => ?_, fun hinput => ?_⟩
  · simp only [step, ha] at h
    exact sentOrOwed_takePacket (s := { s with agenda := rest }) hinv.idle_iff.1 h
  · rcases ha : s.agenda with _ | ⟨p | _ | ⟨a, v⟩ | _, rest⟩ <;> simp only [step, ha] at h
    · exact sentOrOwed_act hinv.idle_iff.2 h
    · simp [ha] at hinput
    · exact sentOrOwed_act (s := { s with agenda := rest }) hinv.idle_iff.2 h
    · cases h
      rfl
    · simp [ha] at hinput

end Sys2Proof.Machine
end

section
/-! ## The delay and the phase of a step

The three formulas of `40_ramp_timer.md` R94, one lemma each, and why the clamp of the acceleration never changes a
value. -/

namespace Sys2Proof.Machine

/-- What makes a delay pair valid, in numbers (`10_state.md` R12). -/
theorem delaysValid_iff {d0 dm : Word} : delaysValid d0 dm = true ↔ 1 ≤ dm.toNat ∧ dm.toNat ≤ d0.toNat := by
  simp only [delaysValid, decide_eq_true_eq, ← BitVec.toNat_inj, BitVec.ofNat_eq_ofNat, BitVec.toNat_zero]
  omega

theorem maxRat_eq_max (a b : Rat) : maxRat a b = max a b := by
  rcases lt_or_ge a b with h | h
  · rw [maxRat, if_pos h, max_eq_right h.le]
  · rw [maxRat, if_neg h.not_gt, max_eq_left h]

namespace Prof

/-! ### What StartProfile guarantees -/

theorem Wf.two_ramp_le {p : Prof} (h : p.Wf) : 2 * p.ramp ≤ p.total := by
  rw [h.ramp]
  omega

theorem Wf.dm_le_d0 {p : Prof} (h : p.Wf) : (p.dm.toNat : Rat) ≤ p.d0.toNat :=
  Nat.cast_le.2 (delaysValid_iff.1 h.delays).2

/-! ### The delay by phases (R94) -/

theorem delay_of_no_ramp {p : Prof} (i : Nat) (h : p.ramp = 0) : p.delay i = p.dm.toNat := if_pos h

theorem delay_accel {p : Prof} {i : Nat} (h : i < p.ramp) :
    p.delay i = max (p.d0.toNat - p.dec * (i + 1)) (p.dm.toNat : Rat) := by
  rw [delay, if_neg (Nat.ne_zero_of_lt h), if_pos h, maxRat_eq_max]

theorem delay_plateau {p : Prof} {i : Nat} (h : p.ramp ≤ i) (hi : i < p.total - p.ramp) : p.delay i = p.dm.toNat := by
  rw [delay, if_neg (Nat.not_lt.2 h), if_neg (Nat.not_le.2 hi), ite_self]

theorem delay_decel {p : Prof} {i : Nat} (hwf : p.Wf) (hr : 0 < p.ramp) (h : p.total - p.ramp ≤ i) :
    p.delay i = p.dm.toNat + p.dec * (i - (p.total - p.ramp) + 1) := by
  have hramp := hwf.two_ramp_le
  rw [delay, if_neg hr.ne', if_neg (by omega), if_pos h, Nat.cast_sub h, Nat.cast_sub (by omega)]

/-- The acceleration never falls below `minDelay`, so the clamp never changes a value. -/
theorem dm_le_accel {p : Prof} {i : Nat} (hwf : p.Wf) (h : i < p.ramp) :
    (p.dm.toNat : Rat) ≤ p.d0.toNat - p.dec * (i + 1) := by
  have hr : (0 : Rat) < p.ramp := Nat.cast_pos.2 (by omega)
  have hi : (i : Rat) + 1 ≤ p.ramp := by exact_mod_cast h
  have hfall : p.dec * (i + 1) ≤ p.d0.toNat - p.dm.toNat := calc
    p.dec * (i + 1) ≤ p.dec * p.ramp :=
      mul_le_mul_of_nonneg_left hi (div_nonneg (sub_nonneg.2 hwf.dm_le_d0) hr.le)
    _ = p.d0.toNat - p.dm.toNat := div_mul_cancel₀ _ hr.ne'
  linarith

end Prof

/-- Settles O22: the case of each phase, and in the acceleration that the clamp changes nothing. -/
theorem delayFollowsTheThreePhases : Obligations.DelayFollowsTheThreePhases := by
  intro p i hwf _ d0 dm r
  refine ⟨Prof.delay_of_no_ramp i, fun h => ?_, fun hpos h => ?_, Prof.delay_plateau⟩
  · have hr : r ≠ 0 := Nat.cast_ne_zero.2 (Nat.ne_zero_of_lt h)
    refine ⟨Prof.delay_accel h, ?_⟩
    rw [Prof.delay_accel h, max_eq_left (Prof.dm_le_accel hwf h)]
    change d0 - (d0 - dm) / r * (i + 1) = _
    field_simp
  · have hr : r ≠ 0 := Nat.cast_ne_zero.2 hpos.ne'
    refine ⟨Prof.delay_decel hwf hpos h, (Prof.delay_decel hwf hpos h).trans ?_⟩
    change dm + (d0 - dm) / r * (i - (p.total - r) + 1) = _
    field_simp

/-- The phase at a forward step is that of its index. -/
theorem State.phase_fwd {s : State} {i : Nat} (h : s.seq = .fwd i) : s.phase = some (s.prof.phase i) := by
  simp only [State.phase, h]

/-- Settles O25, by the guards of the phases in order. -/
theorem phaseOfAStep : Obligations.PhaseOfAStep := by
  intro s i
  refine ⟨fun h hr hi => ?_, fun h hr hi hd => ?_, fun h hp => ?_, fun h => ?_⟩
  · rw [State.phase_fwd h, Prof.phase, if_pos ⟨hr, hi⟩]
  · rw [State.phase_fwd h, Prof.phase, if_neg (by omega), if_pos ⟨hr, hd⟩]
  · rw [State.phase_fwd h, Prof.phase, if_neg (by omega), if_neg (by omega)]
  · simp only [State.phase, h]

end Sys2Proof.Machine
end

section
/-! ## MOVE: its checks and its start (`40_ramp_timer.md` R91, R93) -/

namespace Sys2Proof.Machine

theorem signOfInt_of_pos {a : Int} (h : 0 < a) : signOfInt a = .plus := if_pos h

theorem signOfInt_of_neg {a : Int} (h : a < 0) : signOfInt a = .minus := if_neg (by omega)

theorem fitsS32_iff {n : Int} : fitsS32 n = true ↔ -2 ^ 31 ≤ n ∧ n ≤ 2 ^ 31 - 1 := by
  rw [fitsS32, decide_eq_true_eq]

namespace State

/-- The state a MOVE starts its run in, `n` steps in direction `g` before the overshoot. -/
def moveStarted (s : State) (t d0 dm ovs : Word) (g : Sign) (n : Nat) : State :=
  { s with
    req := ⟨t, d0, dm, ovs⟩, prof := profOf g n ovs d0 dm s.position .ctxMove, op := .opMove, isMoving := true,
    seq := .fwd 0, lines := { s.lines with dirSign := g }, out := s.out ++ [.evDir g] }

/-! ### The lines of R91 in order -/

section Lines

variable {s : State} {t d0 dm : Word} (ovs : Word)

theorem startMove_invalid (hv : delaysValid d0 dm = false) :
    s.startMove t d0 dm ovs = s.refuse 0x02 .configurationError := by
  simp only [startMove, hv, Bool.false_eq_true, if_false]
  rfl

theorem startMove_here (hv : delaysValid d0 dm = true) (h : t.toInt = s.position.toInt) :
    s.startMove t d0 dm ovs = s.respond 0x02 .ok [] := by
  simp only [startMove, hv, h, sub_self, if_true]
  rfl

variable {ovs} {g : Sign} (hv : delaysValid d0 dm = true) (h : t.toInt ≠ s.position.toInt)
  (hg : signOfInt (t.toInt - s.position.toInt) = g)

include hv h hg

theorem startMove_outside
    (hf : ¬(-2 ^ 31 ≤ t.toInt + signToInt g * ovs.toNat ∧ t.toInt + signToInt g * ovs.toNat ≤ 2 ^ 31 - 1)) :
    s.startMove t d0 dm ovs = s.refuse 0x02 .configurationError := by
  subst hg
  simp only [startMove, hv, sub_ne_zero.2 h, if_true, if_false, fitsS32_iff, hf]
  rfl

theorem startMove_accepted {n : Nat} (hn : (t.toInt - s.position.toInt).natAbs = n)
    (hf : -2 ^ 31 ≤ t.toInt + signToInt g * ovs.toNat ∧ t.toInt + signToInt g * ovs.toNat ≤ 2 ^ 31 - 1) :
    s.startMove t d0 dm ovs = s.moveStarted t d0 dm ovs g n := by
  subst hg hn
  simp only [startMove, hv, sub_ne_zero.2 h, if_true, if_false, fitsS32_iff, hf]
  rfl

end Lines

end State

theorem exec_move_ready {s : State} (t d0 dm ovs : Word) (hq : s.seq = .idle) (hi : s.initialized = true) :
    exec (.move t d0 dm ovs) s = .next (s.startMove t d0 dm ovs) := by
  simp only [exec, execMove, State.whenIdle_idle _ _ s hq, State.whenInitialized_on _ _ s hi]

/-- Settles O21: `Idle` and INIT first, then the lines of R91 in order. -/
theorem moveIsCheckedThenStarted : Obligations.MoveIsCheckedThenStarted := by
  intro s t d0 dm ovs answer started pos
  refine ⟨⟨rfl, rfl⟩, fun hq => ?_, fun hq hi => ?_, fun hq hi => ?_⟩
  · exact congrArg Host.Outcome.next (State.whenIdle_busy _ _ s hq)
  · exact congrArg Host.Outcome.next ((State.whenIdle_idle _ _ s hq).trans (State.whenInitialized_off _ _ s hi))
  rw [exec_move_ready t d0 dm ovs hq hi]
  refine ⟨fun hd => congrArg Host.Outcome.next (State.startMove_invalid ovs ?_), fun h1 h2 => ?_⟩
  · rw [Bool.eq_false_iff, ne_eq, delaysValid_iff]
    omega
  have hv : delaysValid d0 dm = true := delaysValid_iff.2 ⟨h1, h2⟩
  have hlow : -2 ^ 31 ≤ t.toInt := t.le_toInt
  have hhigh : t.toInt < 2 ^ 31 := t.toInt_lt
  refine ⟨fun h => ?_, fun h hf => ?_, fun h hf => ?_, fun h hf => ?_, fun h hf => ?_⟩ <;>
    refine congrArg Host.Outcome.next ?_
  · exact State.startMove_here ovs hv h
  · exact State.startMove_outside hv h.ne' (signOfInt_of_pos (sub_pos.2 h)) (by simp only [signToInt]; omega)
  · exact State.startMove_accepted hv h.ne' (signOfInt_of_pos (sub_pos.2 h)) (by omega)
      (by simp only [signToInt]; omega)
  · exact State.startMove_outside hv h.ne (signOfInt_of_neg (sub_neg.2 h)) (by simp only [signToInt]; omega)
  · exact State.startMove_accepted hv h.ne (signOfInt_of_neg (sub_neg.2 h)) (by omega)
      (by simp only [signToInt]; omega)

end Sys2Proof.Machine
end

section
/-! ## The steps of a run

Each action of a profile run as the whole state it leaves (`40_ramp_timer.md` R97 to R101), and what GETPOS shows
during a MOVE.The lemmas on directions split the sign as the statements do; a `rewrite` by one is followed by `rfl`
because the two splits may be separate definitions. -/

namespace Sys2Proof.Machine

/-! ### Directions and places -/

/-- The place `n` steps in direction `g` from `a`. -/
theorem add_signToInt_mul (a n : Int) (g : Sign) :
    a + signToInt g * n = match g with | .plus => a + n | .minus => a - n := by
  cases g <;> simp only [signToInt] <;> ring

/-- One step in direction `g`, as a published position. -/
theorem encS32_add_signToInt (w : Word) (g : Sign) :
    encS32 (w.toInt + signToInt g) = match g with | .plus => w + 1 | .minus => w - 1 := by
  rw [encS32, BitVec.ofInt_add, BitVec.ofInt_toInt]
  cases g with
  | plus => rfl
  | minus => exact (BitVec.sub_eq_add_neg w 1).symm

/-! ### A step: its pulse and its count -/

/-- All that a pulse and its count change. -/
theorem State.pulse_countStep (d : Rat) (dir : Int) (s : State) :
    (s.pulse d).countStep dir = { s with
      prof := { s.prof with net := s.prof.net + dir }, position := (s.countStep dir).position,
      lines := { s.lines with stepLine := false }, out := s.out ++ [.evStep d] } := rfl

theorem State.countStep_forward_position (s : State) :
    (s.countStep 1).position =
      if s.cfg.pincfg.getLsbD 2 = true ∧ s.prof.ctx = .ctxMove then
        (match s.prof.sign with | .plus => s.position + 1 | .minus => s.position - 1)
      else s.position := by
  rewrite [State.countStep_position, one_mul, encS32_add_signToInt]
  rfl

theorem State.countStep_back_position {s : State} (h : s.prof.ctx = .ctxMove) :
    (s.countStep (-1)).position =
      if s.cfg.pincfg.getLsbD 2 = true then
        (match s.prof.sign with | .plus => s.position - 1 | .minus => s.position + 1)
      else s.position := by
  have hflip : -1 * signToInt s.prof.sign = signToInt (signFlip s.prof.sign) := by cases s.prof.sign <;> rfl
  rw [State.countStep_position, hflip, encS32_add_signToInt]
  simp only [h, and_true]
  cases s.prof.sign <;> rfl

/-! ### The ends of a run -/

section Last

variable (d : Rat) (dir : Int) {s : State}

theorem State.finish_counted_move (hc : s.cancelReq = false) (hctx : s.prof.ctx = .ctxMove) (hop : s.op = .opMove) :
    ((s.pulse d).countStep dir).finish = { s with
      prof := { s.prof with net := s.prof.net + dir }, position := s.req.target,
      lines := { s.lines with stepLine := false }, isMoving := false,
      out := s.out ++ [.evStep d, .evResp 0x02 .ok []], seq := .idle, op := .opNone, lastCode := .ok } := by
  rw [State.finish_move ((s.pulse d).countStep dir) hctx, State.pulse_countStep]
  simp only [State.complete, State.emit, hop, hc, opcodeOfOp, List.append_assoc, List.cons_append, List.nil_append]

theorem State.finish_counted_home (hc : s.cancelReq = false) (hctx : s.prof.ctx = .ctxHome) (hop : s.op = .opHome) :
    ((s.pulse d).countStep dir).finish = { s with
      prof := { s.prof with net := s.prof.net + dir }, position := 0,
      lines := { s.lines with stepLine := false }, isMoving := false, hstate := .hZeroed,
      out := s.out ++ [.evStep d, .evResp 0x03 .ok []], seq := .idle, op := .opNone, lastCode := .ok } := by
  rw [State.finish_home ((s.pulse d).countStep dir) hctx, State.pulse_countStep]
  simp only [State.homeZero, State.complete, State.emit, hop, hc, opcodeOfOp, List.append_assoc, List.cons_append,
    List.nil_append]

end Last

theorem act_cancelled {s : State} (h : ∃ i, s.seq = .fwd i ∨ s.seq = .rev i) (hc : s.cancelReq = true) :
    act s = .next s.cancelRun := by
  obtain ⟨i, h | h⟩ := h
  · rw [act_fwd s i h, State.fwdStep_cancelled i s hc]
  · rw [act_rev s i h, State.revStep_cancelled i s hc]

/-- Settles O28: the cancel is the whole action, at forward and at reverse boundaries. -/
theorem cancelEndsTheRunBeforeThePulse : Obligations.CancelEndsTheRunBeforeThePulse := by
  intro s h hc
  refine ⟨fun hctx hop => ?_, fun hctx hop => ?_⟩
  · rw [act_cancelled h hc, State.cancelRun_move s hctx]
    simp only [State.raise, State.moveCleanUp, State.complete, State.emit, hop, opcodeOfOp]
    rewrite [add_signToInt_mul]
    rfl
  · rw [act_cancelled h hc, State.cancelRun_home s hctx]
    simp only [State.homeAbort, State.raise, State.homeCleanUp, State.complete, State.emit, hop, opcodeOfOp]

/-- Settles O26: a cancel as in O28; else the pulse and its count, and what the index and the overshoot choose. -/
theorem forwardStepPulsesOnce : Obligations.ForwardStepPulsesOnce := by
  intro s i h
  refine ⟨fun hc => ?_, fun hc => ?_, fun hc hi => ?_, fun hc hi ho => ?_, fun hc hi ho hctx hop => ?_,
    fun hc hi ho hctx hop => ?_⟩
  · exact (cancelEndsTheRunBeforeThePulse s ⟨i, .inl h⟩ hc).1
  · exact (cancelEndsTheRunBeforeThePulse s ⟨i, .inl h⟩ hc).2
  · rewrite [act_fwd s i h, State.fwdStep_more i s hc hi, State.pulse_countStep, State.countStep_forward_position]
    rfl
  · rewrite [act_fwd s i h, State.fwdStep_turns i s hc hi ho, State.pulse_countStep, State.countStep_forward_position]
    simp only [State.reverse, State.driveDir, State.emit, List.append_assoc]
    rfl
  · rewrite [act_fwd s i h, State.fwdStep_last i s hc hi ho, State.finish_counted_move _ _ hc hctx hop]
    rfl
  · rewrite [act_fwd s i h, State.fwdStep_last i s hc hi ho, State.finish_counted_home _ _ hc hctx hop]
    rfl

/-- Settles O27, as O26 with the count going back and no ramp. -/
theorem reverseStepPulsesOnce : Obligations.ReverseStepPulsesOnce := by
  intro s j h hctx hop
  refine ⟨fun hc => ?_, fun hc hj => ?_, fun hc hj => ?_⟩
  · exact (cancelEndsTheRunBeforeThePulse s ⟨j, .inr h⟩ hc).1 hctx hop
  · rewrite [act_rev s j h, State.revStep_more j s hc hj, State.pulse_countStep, State.countStep_back_position hctx]
    rfl
  · rewrite [act_rev s j h, State.revStep_last j s hc hj, State.finish_counted_move _ _ hc hctx hop]
    rfl

/-! ### What GETPOS shows -/

/-- The place a MOVE shows: its start or, with `PUBINC = 1`, the place reached (R100). -/
theorem MoveInv.position_toInt {s : State} (h : MoveInv s) :
    s.position.toInt =
      if s.cfg.pubinc then
        (match s.prof.sign with
          | .plus => s.prof.start.toInt + s.prof.net
          | .minus => s.prof.start.toInt - s.prof.net)
      else s.prof.start.toInt := by
  rw [h.position, ← add_signToInt_mul]
  split
  · rfl
  · exact Int.add_zero _

/-- Settles O29: the invariant says what `position` is, and GETPOS answers its four bytes. -/
theorem positionShownDuringAMove : Obligations.PositionShownDuringAMove := by
  intro s hinv hop
  refine ⟨byteOf s.position 3, byteOf s.position 2, byteOf s.position 1, byteOf s.position 0, rfl, ?_⟩
  have hbytes : ((byteOf s.position 3).toNat * 2 ^ 24 + (byteOf s.position 2).toNat * 2 ^ 16 +
      (byteOf s.position 1).toNat * 2 ^ 8 + (byteOf s.position 0).toNat : Int) = s.position.toNat := by
    exact_mod_cast byteOf_sum s.position
  rewrite [hbytes, ← toInt_emod, (hinv.move hop).position_toInt]
  rfl

end Sys2Proof.Machine
end

section
/-! ## The register client's own answers

What one transaction changes, the starts of WREG and RREG, and the answer of DECODE (`41_register_client.md` R120,
R126 to R129). -/

namespace Sys2Proof

/-- The bytes of the `k`-th word in a list of words sent one after the other. -/
theorem take_drop_flatMap_bytesBe32 (ws : List Word) {k : Nat} (h : k < ws.length) :
    ((ws.flatMap bytesBe32).drop (4 * k)).take 4 = bytesBe32 ws[k] := by
  induction ws generalizing k with
  | nil => exact absurd h (Nat.not_lt_zero k)
  | cons w ws ih =>
    cases k with
    | zero => rfl
    | succ k =>
      rw [List.flatMap_cons, Nat.mul_succ, Nat.add_comm, ← List.drop_drop]
      exact ih (Nat.lt_of_succ_lt_succ h)

theorem length_flatMap_bytesBe32 (ws : List Word) : (ws.flatMap bytesBe32).length = 4 * ws.length := by
  have hfour : ∀ w, (bytesBe32 w).length = 4 := fun _ => rfl
  simp only [List.length_flatMap, hfour, List.map_const', List.sum_replicate_nat, Nat.mul_comm]

end Sys2Proof

namespace Sys2Proof.Machine

theorem exec_wreg {s : State} (a : Addr) (v : Word) (hq : s.seq = .idle) (hi : s.initialized = true) :
    exec (.wreg a v) s = .next (s.startWreg a v) := by
  simp only [exec, execWreg, State.whenIdle_idle _ _ s hq, State.whenInitialized_on _ _ s hi]

/-- Settles O31: neither command is refused, and the start is the latch. -/
theorem busCommandsLatchAndStart : Obligations.BusCommandsLatchAndStart :=
  fun _ a v hq hi => ⟨exec_wreg a v hq hi, exec_rreg a hq hi⟩

/-- Settles O32: the frame of a transaction, at each of its two outcomes. -/
theorem transactionIsAtomic : Obligations.TransactionIsAtomic := by
  intro s t tx o h
  have hframe := State.transact_frame tx s
  rw [h] at hframe
  exact ⟨by rintro rx rfl; exact hframe, by rintro rfl; exact hframe⟩

theorem Cfg.length_decodeStatus (c : Cfg) (w : Word) : (c.decodeStatus w).length = 8 := by
  rw [Cfg.decodeStatus, List.length_map, Vector.length_toList]

/-- R128: the fields come in index order. -/
theorem Cfg.decodeStatus_getElem (c : Cfg) (w : Word) (k : Fin 8) (h : k.val < (c.decodeStatus w).length) :
    (c.decodeStatus w)[k.val] = fieldValue c.fields[k] w := by
  simp only [Cfg.decodeStatus, List.getElem_map, Vector.getElem_toList, Fin.getElem_fin]

/-- R129: a field of width 0 is 0. -/
theorem fieldValue_toNat_split (e : FieldEntry) (w : Word) : (fieldValue e w).toNat =
    if e.width.toNat = 0 then 0 else w.toNat / 2 ^ e.lsb.toNat % 2 ^ e.width.toNat := by
  rw [fieldValue_toNat]
  split
  · next h => rw [h, Nat.pow_zero, Nat.mod_one]
  · rfl

/-- Settles O35: bytes `4*k` to `4*k + 3` of the answer are those of field `k`. -/
theorem decodeAnswersTheEightFields : Obligations.DecodeAnswersTheEightFields := by
  intro s w
  refine ⟨rfl, rfl, (s.cfg.decodeStatus w).flatMap bytesBe32, rfl, ?_, fun k => ?_⟩
  · rw [length_flatMap_bytesBe32, Cfg.length_decodeStatus]
  · have hk : k.val < (s.cfg.decodeStatus w).length := by rw [Cfg.length_decodeStatus]; exact k.isLt
    refine ⟨_, _, _, _, take_drop_flatMap_bytesBe32 _ hk, ?_⟩
    rw [byteOf_sum, Cfg.decodeStatus_getElem, fieldValue_toNat_split]

end Sys2Proof.Machine
end

section
/-! ## HOME: its start, its seek steps and its status reads

Each action of the seek as the whole state it leaves (`42_homing.md` R142 to R148). -/

namespace Sys2Proof.Machine

/-! ### The start (R142) -/

theorem Cfg.field_stallFlag (c : Cfg) : c.field .stallFlag = c.fields[0] := rfl

theorem Cfg.field_stallMagnitude (c : Cfg) : c.field .stallMagnitude = c.fields[7] := rfl

/-- R142 line 2, in numbers: what makes a configuration unusable for HOME. -/
theorem Cfg.homeReady_iff (c : Cfg) (pred : Pred) : c.homeReady pred = true ↔
    ¬(c.seekdelay.toNat = 0 ∨ c.homen.toNat = 0 ∨ c.boidelay.toNat = 0 ∨ c.bomdelay.toNat = 0 ∨
      c.boidelay.toNat < c.bomdelay.toNat ∨ (pred = .predFlag ∧ c.fields[0].width.toNat = 0) ∨
      (pred = .predAnalog ∧ c.fields[7].width.toNat = 0)) := by
  have hzero {n : Nat} (v : BitVec n) : v ≠ 0 ↔ v.toNat ≠ 0 := not_congr BitVec.toNat_inj.symm
  cases pred with
  | predFlag =>
    simp only [Cfg.homeReady, Bool.and_eq_true, decide_eq_true_eq, delaysValid_iff, hzero, Cfg.field_stallFlag,
      true_and, reduceCtorEq, false_and, or_false]
    omega
  | predAnalog =>
    simp only [Cfg.homeReady, Bool.and_eq_true, decide_eq_true_eq, delaysValid_iff, hzero, Cfg.field_stallMagnitude,
      true_and, reduceCtorEq, false_and, false_or]
    omega

theorem exec_home_ready {s : State} (dir : Sign) (pred : Pred) (hq : s.seq = .idle) (hi : s.initialized = true) :
    exec (.home dir pred) s = .next (s.startHome dir pred) := by
  simp only [exec, execHome, State.whenIdle_idle _ _ s hq, State.whenInitialized_on _ _ s hi]

theorem State.startHome_unusable {s : State} {pred : Pred} (dir : Sign) (h : ¬s.cfg.homeReady pred = true) :
    s.startHome dir pred = s.refuse 0x03 .configurationError := if_neg h

theorem State.startHome_usable {s : State} {pred : Pred} (dir : Sign) (h : s.cfg.homeReady pred = true) :
    s.startHome dir pred = { s with
      hom := ⟨dir, pred, 0, 0⟩, op := .opHome, isMoving := true, hstate := .hSeeking, seq := .seekStep,
      lines := { s.lines with dirSign := dir }, out := s.out ++ [.evDir dir] } := if_pos h

/-- Settles O40: `Idle` and INIT first, then the one test of the configuration. -/
theorem homeIsCheckedThenStarted : Obligations.HomeIsCheckedThenStarted := by
  intro s dir pred answer unusable
  have hready : s.cfg.homeReady pred = true ↔ ¬unusable := s.cfg.homeReady_iff pred
  refine ⟨fun hq => ?_, fun hq hi => ?_, fun hq hi hu => ?_, fun hq hi hu => ?_⟩
  · exact congrArg Host.Outcome.next (State.whenIdle_busy _ _ s hq)
  · exact congrArg Host.Outcome.next ((State.whenIdle_idle _ _ s hq).trans (State.whenInitialized_off _ _ s hi))
  · rw [exec_home_ready dir pred hq hi, State.startHome_unusable dir fun h => hready.1 h hu]
    rfl
  · rw [exec_home_ready dir pred hq hi, State.startHome_usable dir (hready.2 hu)]

/-! ### The ends of HOME (R147, R148) -/

section Ends

variable {s : State} (h : s.op = .opHome)
include h

theorem State.homeAbort_eq (code : Code) : s.homeAbort code = { s with
    hstate := .hIdle, isMoving := false, out := s.out ++ [.evResp 0x03 code []], seq := .idle, op := .opNone,
    lastCode := code, cancelReq := false } := by
  simp only [State.homeAbort, State.raise, State.homeCleanUp, State.complete, State.emit, h, opcodeOfOp]

theorem State.homeZero_eq : s.homeZero = { s with
    hstate := .hZeroed, position := 0, isMoving := false, out := s.out ++ [.evResp 0x03 .ok []], seq := .idle,
    op := .opNone, lastCode := .ok, cancelReq := false } := by
  simp only [State.homeZero, State.complete, State.emit, h, opcodeOfOp]

end Ends

/-- Settles O41: the tests of R143 in order, then the pulse. -/
theorem seekStepChecksThenPulses : Obligations.SeekStepChecksThenPulses := by
  intro s hq hop aborted
  rw [act_seekStep s hq]
  refine ⟨fun hc => ?_, fun hc hb => ?_, fun hc hb => ?_⟩
  · rw [State.seekStep_cancelled s hc, State.homeAbort_eq hop]
  · rw [State.seekStep_exhausted s hc hb, State.homeAbort_eq hop]
  · rw [State.seekStep_pulses s hc hb]
    rfl

/-! ### The stall predicate and its count (R144, R146) -/

/-- R146 on the slices of the status word; "below" is strict. -/
theorem Cfg.stall_iff (c : Cfg) (pred : Pred) (w : Word) : c.stall pred w = true ↔
    pred = .predFlag ∧ w.toNat / 2 ^ c.fields[0].lsb.toNat % 2 ^ c.fields[0].width.toNat ≠ 0 ∨
      pred = .predAnalog ∧
        w.toNat / 2 ^ c.fields[7].lsb.toNat % 2 ^ c.fields[7].width.toNat < c.sgthresh.toNat := by
  cases pred with
  | predFlag =>
    simp only [Cfg.stall, ne_eq, ← BitVec.toNat_inj, fieldValue_toNat, Cfg.field_stallFlag, decide_eq_true_eq,
      true_and, reduceCtorEq, false_and, or_false]
    rfl
  | predAnalog =>
    simp only [Cfg.stall, fieldValue_toNat, Cfg.field_stallMagnitude, decide_eq_true_eq, true_and, reduceCtorEq,
      false_and, false_or]

theorem State.debounced_stall {s : State} {w : Word} (h : s.cfg.stall s.hom.pred w = true) :
    s.debounced w = s.hom.c + 1 := if_pos h

theorem State.debounced_clear {s : State} {w : Word} (h : ¬s.cfg.stall s.hom.pred w = true) :
    s.debounced w = 0 := if_neg h

/-! ### The confirmation (R145) -/

theorem State.confirm_at_once {s : State} (hop : s.op = .opHome) (h : s.cfg.homeoffset.toNat = 0) :
    s.confirm = { s with
      hstate := .hZeroed, position := 0, isMoving := false, out := s.out ++ [.evResp 0x03 .ok []], seq := .idle,
      op := .opNone, lastCode := .ok, cancelReq := false } :=
  (if_pos (BitVec.eq_of_toNat_eq h)).trans (State.homeZero_eq hop)

/-- The back-off runs away from the limit, with no overshoot. -/
theorem State.confirm_backs_off {s : State} (h : 0 < s.cfg.homeoffset.toNat) :
    s.confirm = { s with
      hstate := .hConfirmed,
      prof := profOf (signFlip s.hom.sign) s.cfg.homeoffset.toNat 0 s.cfg.boidelay s.cfg.bomdelay s.position .ctxHome,
      lines := { s.lines with dirSign := signFlip s.hom.sign }, out := s.out ++ [.evDir (signFlip s.hom.sign)],
      seq := .fwd 0 } :=
  if_neg fun h0 => h.ne' (congrArg BitVec.toNat h0)

/-! ### The status read (R144) -/

theorem State.afterRead_status_first {s : State} (h : s.seq = .seekT1) (rx : Bytes5) :
    s.afterRead (.ok rx) = { s with seq := .seekT2 } := by
  simp only [State.afterRead, h]

theorem State.afterRead_status_second {s : State} (h : s.seq = .seekT2) (rx : Bytes5) :
    s.afterRead (.ok rx) = s.takeStatus rx.payload := by
  simp only [State.afterRead, h]

theorem State.afterRead_status_fail {s : State} (h : s.seq = .seekT1 ∨ s.seq = .seekT2) :
    s.afterRead .fail = s.homeAbort .busError := by
  rcases h with h | h <;> simp only [State.afterRead, h]

/-- Settles O42: the transaction keeps what the read depends on, so all is said of the state after it; there the count
of the second read says what follows. -/
theorem statusReadDebouncesTheStall : Obligations.StatusReadDebouncesTheStall := by
  intro s t o hop h
  obtain ⟨hseq, htop, hhom, hcfg, hpos⟩ :
      t.seq = s.seq ∧ t.op = .opHome ∧ t.hom = s.hom ∧ t.cfg = s.cfg ∧ t.position = s.position := by
    rw [show t = (s.transact (readFrame s.cfg.statusaddr)).2 by rw [h], State.transact_frame]
    exact ⟨rfl, hop, rfl, rfl, rfl⟩
  have hact (hq : t.seq = .seekT1 ∨ t.seq = .seekT2) : act s = .next (t.afterRead o) := by
    rw [act_status s (hseq ▸ hq), h]
  rw [← hseq, ← hhom, ← hcfg, ← hpos]
  refine ⟨?_, ?_, ?_⟩
  · rintro rx hq rfl
    rw [hact (.inl hq), State.afterRead_status_first hq]
  · rintro rx hq rfl w c hc
    have hw : rx.payload.toNat = w := be32_toNat _ _ _ _
    have hstall := Cfg.stall_iff t.cfg t.hom.pred rx.payload
    rw [hw] at hstall
    obtain rfl : t.debounced rx.payload = c := by
      rcases hc with ⟨hp, rfl⟩ | ⟨hn, rfl⟩
      · exact State.debounced_stall (hstall.2 hp)
      · exact State.debounced_clear fun hp => hn (hstall.1 hp)
    rw [hact (.inr hq), State.afterRead_status_second hq, ← payload_eq_ofNat rx]
    refine ⟨fun hlt => ?_, fun hle h0 => ?_, fun hle h0 => ?_⟩ <;> refine congrArg Host.Outcome.next ?_
    · exact State.takeStatus_continues _ _ hlt
    · exact (State.takeStatus_confirms _ _ hle).trans (State.confirm_at_once htop h0)
    · exact (State.takeStatus_confirms _ _ hle).trans (State.confirm_backs_off h0)
  · rintro hq rfl
    rw [hact hq, State.afterRead_status_fail hq, State.homeAbort_eq htop]

end Sys2Proof.Machine
end

section
/-! ## What a step runs, and the commands that answer at once

Packets and actions by what is next on the agenda, the refusals `Busy` and `IllegalCommand`, and INIT, GETPOS and
CANCEL (`43_host_commands.md` R160 to R163, R166). -/

namespace Sys2Proof.Machine

/-! ### What is next -/

theorem takePacket_instr {p : List Byte} {i : Instr} (h : decodeCommand p = .instr i) (s : State) :
    takePacket p s = exec i s := by
  simp only [takePacket, h]

/-- A packet that R74 calls illegal does not decode, so it is answered as R161 says. -/
theorem takePacket_not_legal {p : List Byte} (h : packetLegal p = false) (s : State) :
    takePacket p s = .next (s.refuseIllegal p) := by
  unfold takePacket
  split
  · next i hi => exact absurd (packetLegal_of_decodeCommand hi) (Bool.eq_false_iff.1 h)
  · rfl

theorem step_takes_packet {s : State} {p : List Byte} {rest : List Input} (h : s.agenda = .packet p :: rest) :
    step s = takePacket p { s with agenda := rest } := by
  simp only [step, h]

theorem act_of_pendingFrame {s : State} {i : Instr} (h : s.pendingFrame = some i) : act s = exec i s := by
  simp only [act, h]

/-- Settles O3: the agenda's cases, and at a boundary that sends a frame the frame that is pending there. -/
theorem stepRunsWhatIsNext : Obligations.StepRunsWhatIsNext := by
  intro s rest
  refine ⟨fun p i ha hi => ?_, step_act s rest, step_nil s, fun hq => ?_, fun hq => ?_, fun hq => ?_⟩
  · rw [step_takes_packet ha, takePacket_instr hi]
  · exact act_of_pendingFrame (by simp only [State.pendingFrame, hq])
  · exact act_of_pendingFrame (by rcases hq with hq | hq <;> simp only [State.pendingFrame, hq])
  · exact act_of_pendingFrame (by rcases hq with hq | hq <;> simp only [State.pendingFrame, hq])

/-- Settles O5: the sequencer acts, and at `Idle` its action is none. -/
theorem idleBlockWaits : Obligations.IdleBlockWaits :=
  fun s hq ha => (step_nil s ha).trans (act_idle s hq)

/-! ### Refusals -/

/-- Settles O6: an illegal packet does not decode, and what does not decode is only answered. -/
theorem illegalPacketOnlyAnswers : Obligations.IllegalPacketOnlyAnswers := by
  intro s p rest ha hp
  rw [step_takes_packet ha, takePacket_not_legal hp]
  cases p <;> rfl

/-- Settles O19: each of the six commands is run by `whenIdle`, under its own opcode. -/
theorem busyRefusalsHaveNoEffect : Obligations.BusyRefusalsHaveNoEffect := by
  intro s hq busy
  have hbusy (cmd : Byte) (run : State → State) : .next (s.whenIdle cmd run) = busy cmd :=
    congrArg Host.Outcome.next (State.whenIdle_busy cmd run s hq)
  exact ⟨hbusy _ _, fun _ _ _ _ => hbusy _ _, fun _ _ => hbusy _ _, fun _ _ => hbusy _ _, fun _ => hbusy _ _,
    fun _ _ => hbusy _ _⟩

/-! ### INIT, GETPOS and CANCEL -/

/-- The effect of INIT, with its two events in order (R162). -/
theorem State.initBlock_eq (s : State) : s.initBlock = { s with
    initialized := true,
    lines := { s.lines with stepLine := false, csOn := false, enableOn := true },
    out := s.out ++ [.evEnable true, .evResp 0x01 .ok []] } := by
  simp only [State.initBlock, State.driveEnable, State.respond, State.emit, List.append_assoc]
  rfl

/-- Settles O12: `whenIdle` runs INIT at `Idle` and refuses it elsewhere. -/
theorem initTurnsTheBlockOn : Obligations.InitTurnsTheBlockOn := by
  intro s
  refine ⟨rfl, fun hq => ?_, fun hq => ?_⟩
  · rw [← State.initBlock_eq, exec, execInit, State.whenIdle_idle _ _ s hq]
  · exact congrArg Host.Outcome.next (State.whenIdle_busy _ _ s hq)

/-- Settles O13: the bytes of a word sum to its number, which is its value modulo `2^32`. -/
theorem getposAnswersThePosition : Obligations.GetposAnswersThePosition := by
  intro s
  refine ⟨_, _, _, _, rfl, ?_⟩
  rw [toInt_emod, ← byteOf_sum s.position]
  push_cast
  rfl

theorem State.requestCancel_eq (s : State) : s.requestCancel =
    { s with cancelReq := if s.op = .opMove ∨ s.op = .opHome then true else s.cancelReq } := by
  unfold State.requestCancel
  split
  · next hop => rw [if_pos (.inl hop)]
  · next hop => rw [if_pos (.inr hop)]
  all_goals next hop => rw [if_neg (by simp [hop])]

/-- Settles O15: the request is latched by the operation in progress, then answered. -/
theorem cancelIsLatchedOnlyDuringMoveOrHome : Obligations.CancelIsLatchedOnlyDuringMoveOrHome := by
  intro s
  rw [exec, execCancel, State.requestCancel_eq]
  rfl

end Sys2Proof.Machine
end

section
/-! ## Configuration registers by index

The register each index names, what SETCFG stores there, and the number GETCFG answers from there (`10_state.md` R29
to R31, `43_host_commands.md` R167, R168). -/

namespace Sys2Proof.Machine

/-! ### Indices -/

theorem cfgRegOf_cfgIndex (r : CfgReg) : cfgRegOf (cfgIndex r) = some r := by
  cases r with
  | field k => cases k <;> decide
  | _ => decide

theorem cfgRegOf_of_toNat {x : Byte} {r : CfgReg} (h : x.toNat = (cfgIndex r).toNat) : cfgRegOf x = some r := by
  rw [BitVec.eq_of_toNat_eq h, cfgRegOf_cfgIndex]

/-- The index of a field table entry is `0x20` and its place in the table (`10_state.md` R30). -/
theorem fieldRegister_of_toNat {x : Byte} {k : Fin 8} (h : x.toNat = 0x20 + k.val) :
    ∃ f, fieldIndex f = k ∧ cfgRegOf x = some (.field f) := by
  obtain ⟨f, hf, hk⟩ := cfgRegOf_field k
  have hx : x = BitVec.ofNat 8 (0x20 + k.val) := by rw [← h, BitVec.ofNat_toNat, BitVec.setWidth_eq]
  exact ⟨f, hk, hx ▸ hf⟩

/-- The indices between the registers and behind them are unassigned (`10_state.md` R30). -/
theorem cfgRegOf_unassigned {x : Byte}
    (h : 2 ≤ x.toNat ∧ x.toNat < 0x10 ∨ 0x18 ≤ x.toNat ∧ x.toNat < 0x20 ∨ 0x28 ≤ x.toNat ∧ x.toNat ≠ 0x7F) :
    cfgRegOf x = none := by
  revert x
  decide

/-! ### SETCFG -/

section Setcfg

variable {s : State} {x : Byte} {v : Word} {r : CfgReg} (hq : s.seq = .idle) (hr : cfgRegOf x = some r)
include hq

theorem exec_setcfg_idle : exec (.setcfg x v) s = .next (s.setCfg x v) := by
  rw [exec, execSetcfg, State.whenIdle_idle _ _ s hq]

theorem exec_setcfg_unassigned (hn : cfgRegOf x = none) :
    exec (.setcfg x v) s = .next (s.refuse 0x0A .configurationError) := by
  rw [exec_setcfg_idle hq, State.setCfg, hn]
  rfl

include hr

theorem exec_setcfg_accepted {c : Cfg} (hw : s.cfg.write r v = some c) :
    exec (.setcfg x v) s = .next ({ s with cfg := c }.respond 0x0A .ok []) := by
  rw [exec_setcfg_idle hq, State.setCfg, hr, Option.bind_some, hw]
  rfl

theorem exec_setcfg_refused (hw : s.cfg.write r v = none) :
    exec (.setcfg x v) s = .next (s.refuse 0x0A .configurationError) := by
  rw [exec_setcfg_idle hq, State.setCfg, hr, Option.bind_some, hw]
  rfl

end Setcfg

/-- The entry a value stores, by its two slices (`30_encoding.md` R79). -/
theorem fieldOfWord_eq (v : Word) : fieldOfWord v =
    ⟨BitVec.ofNat 5 (v.toNat % 2 ^ 5), BitVec.ofNat 6 (v.toNat / 2 ^ 8 % 2 ^ 6)⟩ := by
  obtain ⟨hl, hw⟩ := fieldOfWord_toNat v
  rw [← hl, ← hw, BitVec.ofNat_toNat, BitVec.ofNat_toNat, BitVec.setWidth_eq, BitVec.setWidth_eq]

/-- What R167 asks of the value of a field table entry. -/
theorem fieldLegal_fieldOfWord_iff (v : Word) : fieldLegal (fieldOfWord v) = true ↔
    v.toNat / 2 ^ 8 % 2 ^ 6 ≤ 32 ∧ v.toNat % 2 ^ 5 + v.toNat / 2 ^ 8 % 2 ^ 6 ≤ 32 := by
  obtain ⟨hl, hw⟩ := fieldOfWord_toNat v
  rw [fieldLegal, decide_eq_true_iff, hl, hw]

theorem Cfg.write_field (c : Cfg) {f : FieldName} {v : Word} (h : fieldLegal (fieldOfWord v) = true) :
    c.write (.field f) v = some { c with
      fields := c.fields.set (fieldIndex f).val
        ⟨BitVec.ofNat 5 (v.toNat % 2 ^ 5), BitVec.ofNat 6 (v.toNat / 2 ^ 8 % 2 ^ 6)⟩ (fieldIndex f).isLt } := by
  rw [← fieldOfWord_eq]
  exact if_pos h

theorem Cfg.write_pincfg (c : Cfg) (v : Word) :
    c.write .pincfg v = some { c with pincfg := BitVec.ofNat 3 (v.toNat % 8) } := by
  have hbits : v.setWidth 3 = BitVec.ofNat 3 (v.toNat % 8) := BitVec.eq_of_toNat_eq (by simp)
  rw [Cfg.write, hbits]

theorem Cfg.write_statusaddr (c : Cfg) {v : Word} (h : v.toNat ≤ 0x7F) :
    c.write .statusaddr v = some { c with statusaddr := BitVec.ofNat 7 v.toNat } := by
  rw [Cfg.write, if_neg (Nat.not_lt.2 h), BitVec.ofNat_toNat]

/-- Settles O16: the register of each index, and what it takes. -/
theorem setcfgWritesTheNamedRegister : Obligations.SetcfgWritesTheNamedRegister := by
  intro s x v done refused
  refine ⟨⟨rfl, rfl⟩, fun hq => congrArg Host.Outcome.next (State.whenIdle_busy _ _ s hq), fun hq => ?_⟩
  have haccept (r : CfgReg) (c : Cfg) (hw : s.cfg.write r v = some c) (hx : x.toNat = (cfgIndex r).toNat) :
      exec (.setcfg x v) s = done c := exec_setcfg_accepted hq (cfgRegOf_of_toNat hx) hw
  refine ⟨haccept .pincfg _ (s.cfg.write_pincfg v), haccept .revpause _ rfl, haccept .seekdelay _ rfl,
    haccept .homebudget _ rfl, haccept .homeoffset _ rfl, haccept .homen _ rfl, haccept .sgthresh _ rfl,
    haccept .boidelay _ rfl, haccept .bomdelay _ rfl,
    fun hx hv => haccept .statusaddr _ (s.cfg.write_statusaddr hv) hx, fun hx hv => ?_, fun k hx => ?_, fun hx => ?_⟩
  · exact exec_setcfg_refused (r := .statusaddr) hq (cfgRegOf_of_toNat hx) (if_pos hv)
  · obtain ⟨f, rfl, hr⟩ := fieldRegister_of_toNat hx
    refine ⟨fun h => ?_, fun h => ?_⟩ <;> rw [← fieldLegal_fieldOfWord_iff] at h
    · exact exec_setcfg_accepted hq hr (s.cfg.write_field h)
    · exact exec_setcfg_refused hq hr (if_neg h)
  · by_cases hstatus : x.toNat = 0x7F
    · exact exec_setcfg_refused (r := .status) hq (cfgRegOf_of_toNat hstatus) rfl
    · exact exec_setcfg_unassigned hq (cfgRegOf_unassigned (by omega))

/-! ### STATUS as a number (`10_state.md` R31) -/

theorem toNat_append_eq_add {m n : Nat} (a : BitVec m) (b : BitVec n) :
    (a ++ b).toNat = a.toNat * 2 ^ n + b.toNat := by
  rw [BitVec.toNat_append, ← Nat.shiftLeft_add_eq_or_of_lt b.isLt, Nat.shiftLeft_eq]

/-- The fields of STATUS stand at the places R31 gives them, and the reserved bits are 0. -/
theorem State.status_toNat (s : State) : s.status.toNat =
    s.isMoving.toNat + 2 * s.initialized.toNat + 4 * s.cancelReq.toNat + 16 * (hstateBits s.hstate).toNat +
      256 * (opBits s.op).toNat + 65536 * (codeByte s.lastCode).toNat := by
  simp only [State.status, toNat_append_eq_add, BitVec.toNat_ofBool, BitVec.toNat_ofNat]
  omega

/-! ### GETCFG -/

/-- GETCFG answers the four bytes of the register, which sum to its number (R168). -/
theorem exec_getcfg_gives {s : State} {x : Byte} {r : CfgReg} {n : Nat} (hr : cfgRegOf x = some r)
    (hn : (s.readCfg r).toNat = n) : ∃ b3 b2 b1 b0 : Byte,
      exec (.getcfg x) s = .next { s with out := s.out ++ [.evResp 0x0B .ok [b3, b2, b1, b0]] } ∧
        b3.toNat * 2 ^ 24 + b2.toNat * 2 ^ 16 + b1.toNat * 2 ^ 8 + b0.toNat = n := by
  refine ⟨_, _, _, _, ?_, (byteOf_sum _).trans hn⟩
  rw [exec, execGetcfg, hr]
  rfl

/-- Settles O17: the register of each index, and its number. -/
theorem getcfgAnswersTheNamedRegister : Obligations.GetcfgAnswersTheNamedRegister := by
  intro s x gives
  have hgives (r : CfgReg) (n : Nat) (hn : (s.readCfg r).toNat = n) (hx : x.toNat = (cfgIndex r).toNat) : gives n :=
    exec_getcfg_gives (cfgRegOf_of_toNat hx) hn
  have hpincfg : (s.cfg.pincfg.setWidth 32).toNat = s.cfg.pincfg.toNat := BitVec.toNat_setWidth_of_le (by decide)
  have haddr : (s.cfg.statusaddr.setWidth 32).toNat = s.cfg.statusaddr.toNat :=
    BitVec.toNat_setWidth_of_le (by decide)
  refine ⟨rfl, hgives .pincfg _ hpincfg, hgives .revpause _ rfl, hgives .seekdelay _ rfl, hgives .homebudget _ rfl,
    hgives .homeoffset _ rfl, hgives .homen _ rfl, hgives .sgthresh _ rfl, hgives .boidelay _ rfl,
    hgives .bomdelay _ rfl, hgives .statusaddr _ haddr, fun k hx => ?_, hgives .status _ ?_, fun hx => ?_⟩
  · obtain ⟨f, rfl, hr⟩ := fieldRegister_of_toNat hx
    exact exec_getcfg_gives hr (wordOfField_toNat _)
  · refine s.status_toNat.trans ?_
    congr
    · cases s.hstate <;> rfl
    · cases s.op <;> rfl
    · cases s.lastCode <;> rfl
  · rw [exec, execGetcfg, cfgRegOf_unassigned hx]
    rfl

end Sys2Proof.Machine
end

section
/-! ## How the operations end

What an action of the sequencer does to the operation in progress: the operation goes on, ends well, or fails, and
then is cleaned up after (`60_exceptions.md` R190, R200). A packet and a change of the chip end none. Each of these is
said once; the statements on `position`, on the codes sent and on the clean-up are read off it. -/

namespace Sys2Proof.Machine

/-! ### Events with listed codes (`60_exceptions.md` R181) -/

/-- Any event but a response; a response with a code that is not reserved, and without payload unless it is `OK`. -/
def Event.Listed : Event → Prop
  | .evResp _ code payload => code ≠ .persistenceError ∧ (code ≠ .ok → payload = [])
  | _ => True

theorem codeByte_of_listed {code : Code} (h : code ≠ .persistenceError) :
    (codeByte code).toNat ≤ 8 ∧ codeByte code ≠ 0x04 := by
  revert h
  cases code <;> decide

/-- From `s` to `t` the trace grew by `new`, whose events are all listed. -/
def State.GrowsBy (new : List Event) (s t : State) : Prop := t.out = s.out ++ new ∧ ∀ e ∈ new, e.Listed

theorem State.GrowsBy.refl (s : State) : s.GrowsBy [] s := ⟨(List.append_nil _).symm, nofun⟩

theorem State.GrowsBy.emit {e : Event} (he : e.Listed) (s : State) : s.GrowsBy [e] (s.emit e) :=
  ⟨rfl, fun _ hmem => List.mem_singleton.1 hmem ▸ he⟩

theorem State.GrowsBy.trans {s u t : State} {new more : List Event} (h : s.GrowsBy new u) (h' : u.GrowsBy more t) :
    s.GrowsBy (new ++ more) t :=
  ⟨by rw [h'.1, h.1, List.append_assoc], fun e he => (List.mem_append.1 he).elim (h.2 e) (h'.2 e)⟩

/-! ### Going on, ending, failing -/

/-- What the operation in progress must have met to fail with a code (`60_exceptions.md` R181). -/
def State.MayFail (s : State) : Code → Prop
  | .busError => s.op = .opWreg ∨ s.op = .opRreg ∨ s.op = .opHome
  | .homingTimeout => s.op = .opHome ∧ s.hom.s.toNat = s.cfg.homebudget.toNat
  | .cancelled => (s.op = .opMove ∨ s.op = .opHome) ∧ s.cancelReq = true
  | _ => False

/-- The operation in progress, or none, goes on; `position` follows the steps of a MOVE alone. -/
structure State.GoesOn (s t : State) : Prop where
  op       : t.op = s.op
  isMoving : t.isMoving = s.isMoving
  lastCode : t.lastCode = s.lastCode
  grows    : ∃ new, s.GrowsBy new t
  position : t.position ≠ s.position → s.op = .opMove

/-- The operation in progress ends with a code, which is recorded and sent. -/
structure State.Ends (code : Code) (s t : State) : Prop where
  running  : s.op ≠ .opNone
  op       : t.op = .opNone
  isMoving : t.isMoving = false
  lastCode : t.lastCode = code
  sends    : ∃ new, s.GrowsBy new t ∧ ∃ cmd payload, Event.evResp cmd code payload ∈ new
  position : t.position ≠ s.position → s.op = .opMove ∨ (s.op = .opHome ∧ t.position = 0 ∧ t.hstate = .hZeroed)

/-- The operation in progress fails: it ends for one of the causes of that code, and is cleaned up after (R190). -/
structure State.Fails (code : Code) (s t : State) : Prop extends s.Ends code t where
  cause     : s.MayFail code
  seq       : t.seq = .idle
  cancelReq : t.cancelReq = false
  lines     : t.lines = s.lines
  cfg       : t.cfg = s.cfg
  hstate    : t.hstate = if s.op = .opHome then .hIdle else s.hstate
  place     : t.position ≠ s.position → s.op = .opMove ∧ code = .cancelled

/-- What an action of the sequencer can do. -/
inductive State.Acts (s t : State) : Prop where
  | goesOn (h : s.GoesOn t)
  | succeeds (h : s.Ends .ok t)
  | fails (code : Code) (h : s.Fails code t)

/-- From `s` to `u` nothing changed that the end of an operation speaks of, but for the trace. -/
structure State.Prepares (s u : State) : Prop where
  position  : u.position = s.position
  steps     : u.hom.s = s.hom.s
  lines     : u.lines = s.lines
  op        : u.op = s.op
  hstate    : u.hstate = s.hstate
  isMoving  : u.isMoving = s.isMoving
  cancelReq : u.cancelReq = s.cancelReq
  lastCode  : u.lastCode = s.lastCode
  cfg       : u.cfg = s.cfg
  grows     : ∃ new, s.GrowsBy new u

namespace State

variable {s t u : State} {code : Code}

theorem MayFail.listed (h : s.MayFail code) (cmd : Byte) : (Event.evResp cmd code []).Listed :=
  ⟨by rintro rfl; exact h, fun _ => rfl⟩

/-- An action that keeps the operation, its flags and `position`, and emits listed events. -/
theorem GoesOn.quiet {new : List Event} (op : t.op = s.op) (isMoving : t.isMoving = s.isMoving)
    (lastCode : t.lastCode = s.lastCode) (position : t.position = s.position) (grows : s.GrowsBy new t) :
    s.GoesOn t :=
  ⟨op, isMoving, lastCode, ⟨new, grows⟩, absurd position⟩

theorem GoesOn.refl (s : State) : s.GoesOn s := .quiet rfl rfl rfl rfl (GrowsBy.refl s)

theorem GoesOn.trans (h : s.GoesOn u) (h' : u.GoesOn t) : s.GoesOn t where
  op := h'.op.trans h.op
  isMoving := h'.isMoving.trans h.isMoving
  lastCode := h'.lastCode.trans h.lastCode
  grows := by
    obtain ⟨new, hnew⟩ := h.grows
    obtain ⟨more, hmore⟩ := h'.grows
    exact ⟨_, hnew.trans hmore⟩
  position hp := by
    by_cases hu : u.position = s.position
    · exact h.op ▸ h'.position (hu ▸ hp)
    · exact h.position hu

theorem Ends.after (h : s.GoesOn u) (he : u.Ends code t) : s.Ends code t where
  running := h.op ▸ he.running
  op := he.op
  isMoving := he.isMoving
  lastCode := he.lastCode
  sends := by
    obtain ⟨new, hnew⟩ := h.grows
    obtain ⟨more, hmore, cmd, payload, hresp⟩ := he.sends
    exact ⟨_, hnew.trans hmore, cmd, payload, List.mem_append_right new hresp⟩
  position hp := by
    by_cases hu : u.position = s.position
    · exact h.op ▸ he.position (hu ▸ hp)
    · exact .inl (h.position hu)

theorem Prepares.goesOn (h : s.Prepares u) : s.GoesOn u :=
  ⟨h.op, h.isMoving, h.lastCode, h.grows, absurd h.position⟩

theorem Prepares.mayFail (h : s.Prepares u) : u.MayFail code = s.MayFail code := by
  unfold MayFail
  rw [h.op, h.steps, h.cfg, h.cancelReq]

theorem Fails.after (h : s.Prepares u) (hf : u.Fails code t) : s.Fails code t where
  toEnds := hf.toEnds.after h.goesOn
  cause := h.mayFail ▸ hf.cause
  seq := hf.seq
  cancelReq := hf.cancelReq
  lines := hf.lines.trans h.lines
  cfg := hf.cfg.trans h.cfg
  hstate := by rw [hf.hstate, h.op, h.hstate]
  place := h.position ▸ h.op ▸ hf.place

theorem Acts.after (h : s.Prepares u) (ha : u.Acts t) : s.Acts t := by
  cases ha with
  | goesOn hg => exact .goesOn (h.goesOn.trans hg)
  | succeeds he => exact .succeeds (he.after h.goesOn)
  | fails code hf => exact .fails code (hf.after h)

theorem Prepares.withAgenda (s : State) (rest : List Input) : s.Prepares { s with agenda := rest } :=
  ⟨rfl, rfl, rfl, rfl, rfl, rfl, rfl, rfl, rfl, [], GrowsBy.refl s⟩

/-- Between actions chip-select is low, so a transaction leaves the lines as they were. -/
theorem Prepares.transact (h : s.lines.csOn = false) (tx : Bytes5) : s.Prepares (s.transact tx).2 := by
  have hlisted : (txnEvent tx (s.transact tx).1).Listed := by cases (s.transact tx).1 <;> trivial
  rw [transact_frame]
  exact ⟨rfl, rfl, by rw [← h], rfl, rfl, rfl, rfl, rfl, rfl, _, GrowsBy.emit hlisted s⟩

/-! ### The ends -/

/-- The completion of an operation, after what clears the motion flags and settles `position`. -/
theorem Ends.complete {p : List Byte} (running : s.op ≠ .opNone) (out : u.out = s.out)
    (listed : (Event.evResp (opcodeOfOp u.op) code p).Listed) (isMoving : u.isMoving = false)
    (position : u.position ≠ s.position → s.op = .opMove ∨ (s.op = .opHome ∧ u.position = 0 ∧ u.hstate = .hZeroed)) :
    s.Ends code (u.complete code p) where
  running := running
  op := rfl
  isMoving := isMoving
  lastCode := rfl
  sends := ⟨_, ⟨by rw [complete_out, out], (GrowsBy.emit listed u).2⟩, _, p, List.mem_singleton_self _⟩
  position := position

theorem homeZero_ends (hop : s.op = .opHome) : s.Ends .ok s.homeZero :=
  .complete (by simp [hop]) rfl ⟨nofun, absurd rfl⟩ rfl fun _ => .inr ⟨hop, rfl, rfl⟩

theorem homeAbort_fails (hop : s.op = .opHome) (cause : s.MayFail code) : s.Fails code (s.homeAbort code) where
  toEnds := .complete (by simp [hop]) rfl (cause.listed _) rfl (absurd rfl)
  cause := cause
  seq := rfl
  cancelReq := rfl
  lines := rfl
  cfg := rfl
  hstate := (if_pos hop).symm
  place := absurd rfl

theorem moveCancel_fails (hop : s.op = .opMove) (hc : s.cancelReq = true) :
    s.Fails .cancelled (s.raise moveCleanUp .cancelled) where
  toEnds := .complete (by simp [hop]) rfl ⟨nofun, fun _ => rfl⟩ rfl fun _ => .inl hop
  cause := ⟨.inl hop, hc⟩
  seq := rfl
  cancelReq := rfl
  lines := rfl
  cfg := rfl
  hstate := (if_neg (by simp [hop])).symm
  place := fun _ => ⟨hop, rfl⟩

/-! ### The actions, by boundary -/

section Invariant

variable (h : s.Inv)
include h

/-- The operation, and the owner of its run, at a boundary. -/
theorem Inv.fits {q : Seq} (hq : s.seq = q) : Machine.seqFits s.op s.prof.ctx q := hq ▸ h.seqFits

theorem Inv.not_moving (hm : s.op ≠ .opMove) (hh : s.op ≠ .opHome) : s.isMoving = false :=
  Bool.eq_false_iff.2 fun hmoving => (h.moving.1 hmoving).elim hm hh

theorem Inv.withAgenda (rest : List Input) : { s with agenda := rest }.Inv :=
  h.quiet rfl rfl rfl rfl rfl rfl rfl rfl rfl rfl rfl rfl rfl h.mem

theorem Inv.transact (tx : Bytes5) : (s.transact tx).2.Inv := by
  have hp := Prepares.transact h.csLow tx
  exact h.quiet hp.position (by rw [transact_frame]) (by rw [transact_frame]) (by rw [transact_frame]) hp.lines hp.op
    (transact_seq tx s) hp.hstate hp.isMoving (by rw [transact_frame]) hp.cancelReq
    hp.lastCode hp.cfg (transact_wf tx s h.mem)

end Invariant

/-- A run in progress is that of the operation in progress. -/
def OwnsRun (s : State) : Prop := (s.op = .opMove ∧ s.prof.ctx = .ctxMove) ∨ (s.op = .opHome ∧ s.prof.ctx = .ctxHome)

theorem finish_ends (hown : s.OwnsRun) : s.Ends .ok s.finish := by
  rcases hown with ⟨hop, hctx⟩ | ⟨hop, hctx⟩
  · rw [finish_move s hctx]
    exact .complete (by simp [hop]) rfl ⟨nofun, absurd rfl⟩ rfl fun _ => .inl hop
  · rw [finish_home s hctx]
    exact homeZero_ends hop

theorem cancelRun_fails (hown : s.OwnsRun) (hc : s.cancelReq = true) : s.Fails .cancelled s.cancelRun := by
  rcases hown with ⟨hop, hctx⟩ | ⟨hop, hctx⟩
  · rw [cancelRun_move s hctx]
    exact moveCancel_fails hop hc
  · rw [cancelRun_home s hctx]
    exact homeAbort_fails hop ⟨.inr hop, hc⟩

/-- A counted step publishes a place only in a MOVE. -/
theorem counted_goesOn (hown : s.OwnsRun) (d : Rat) (dir : Int) : s.GoesOn ((s.pulse d).countStep dir) := by
  refine ⟨rfl, rfl, rfl, ⟨_, GrowsBy.emit (e := .evStep d) trivial s⟩, fun hp => ?_⟩
  rcases hown with ⟨hop, -⟩ | ⟨-, hctx⟩
  · exact hop
  · simp [hctx] at hp

theorem reverse_goesOn (s : State) : s.GoesOn s.reverse :=
  .quiet rfl rfl rfl rfl
    ((GrowsBy.emit (e := .evDir (signFlip s.prof.sign)) trivial s).trans
      (GrowsBy.emit (e := .evPause s.cfg.revpause.toNat) trivial _))

theorem setSeq_goesOn (s : State) (q : Seq) : s.GoesOn { s with seq := q } := .quiet rfl rfl rfl rfl (GrowsBy.refl s)

theorem fwdStep_acts (hown : s.OwnsRun) (i : Nat) : s.Acts (s.fwdStep i) := by
  have hn := counted_goesOn hown (s.prof.delay i) 1
  simp only [fwdStep]
  split
  · next hc => exact .fails _ (cancelRun_fails hown hc)
  · split
    · exact .goesOn (hn.trans (setSeq_goesOn _ _))
    · split
      · exact .goesOn (hn.trans (reverse_goesOn _))
      · exact .succeeds ((finish_ends (by exact hown)).after hn)

theorem revStep_acts (hown : s.OwnsRun) (j : Nat) : s.Acts (s.revStep j) := by
  have hn := counted_goesOn hown (s.prof.dm.toNat : Rat) (-1)
  simp only [revStep]
  split
  · next hc => exact .fails _ (cancelRun_fails hown hc)
  · split
    · exact .goesOn (hn.trans (setSeq_goesOn _ _))
    · exact .succeeds ((finish_ends (by exact hown)).after hn)

theorem seekStep_acts (hop : s.op = .opHome) (hbudget : s.hom.s.toNat ≤ s.cfg.homebudget.toNat) :
    s.Acts s.seekStep := by
  unfold seekStep
  split
  · next hc => exact .fails _ (homeAbort_fails hop ⟨.inr hop, hc⟩)
  · split
    · next hspent => exact .fails _ (homeAbort_fails hop ⟨hop, hbudget.antisymm hspent⟩)
    · exact .goesOn (.quiet rfl rfl rfl rfl (GrowsBy.emit (e := .evStep (s.cfg.seekdelay.toNat : Rat)) trivial s))

theorem confirm_acts (hop : s.op = .opHome) : s.Acts s.confirm := by
  unfold confirm
  split
  · exact .succeeds (homeZero_ends hop)
  · exact .goesOn (.quiet rfl rfl rfl rfl (GrowsBy.emit (e := .evDir (signFlip s.hom.sign)) trivial s))

theorem takeStatus_acts (hop : s.op = .opHome) (w : Word) : s.Acts (s.takeStatus w) := by
  simp only [takeStatus]
  split
  · refine Acts.after ?_ (confirm_acts (by exact hop))
    exact ⟨rfl, rfl, rfl, rfl, rfl, rfl, rfl, rfl, rfl, [], GrowsBy.refl s⟩
  · exact .goesOn (.quiet rfl rfl rfl rfl (GrowsBy.refl s))

theorem client_op_ne (hop : s.op = .opWreg ∨ s.op = .opRreg) :
    s.op ≠ .opNone ∧ s.op ≠ .opMove ∧ s.op ≠ .opHome := by
  rcases hop with hop | hop <;> simp [hop]

section Actions

variable (h : s.Inv)
include h

/-- A WREG or RREG ends without motion, whatever it leaves in the bus latches. -/
theorem client_ends (hop : s.op = .opWreg ∨ s.op = .opRreg) (b : BusLatch) {p : List Byte}
    (listed : (Event.evResp (opcodeOfOp s.op) code p).Listed) : s.Ends code ({ s with bus := b }.complete code p) := by
  obtain ⟨hnone, hmove, hhome⟩ := client_op_ne hop
  exact .complete hnone rfl listed (h.not_moving hmove hhome) (absurd rfl)

theorem busFailure_fails (hop : s.op = .opWreg ∨ s.op = .opRreg) : s.Fails .busError s.busFailure where
  toEnds := client_ends h hop s.bus ⟨nofun, fun _ => rfl⟩
  cause := hop.elim .inl fun hread => .inr (.inl hread)
  seq := rfl
  cancelReq := rfl
  lines := rfl
  cfg := rfl
  hstate := by
    obtain ⟨-, -, hhome⟩ := client_op_ne hop
    exact (if_neg hhome).symm
  place := absurd rfl

theorem afterWrite_acts (o : TxnOutcome) : s.Acts (s.afterWrite o) := by
  unfold afterWrite
  split
  · next hq =>
    have hop : s.op = .opWreg := h.fits hq
    split
    · exact .succeeds (client_ends h (.inl hop) s.bus ⟨nofun, absurd rfl⟩)
    · exact .fails _ (busFailure_fails h (.inl hop))
  · exact .goesOn (.refl s)

theorem afterRead_acts (o : TxnOutcome) : s.Acts (s.afterRead o) := by
  unfold afterRead
  split
  · next hq =>
    split
    · exact .goesOn (setSeq_goesOn s .rdT2)
    · exact .fails _ (busFailure_fails h (.inr (h.fits hq)))
  · next hq =>
    split
    · exact .succeeds (client_ends h (.inr (h.fits hq)) _ ⟨nofun, absurd rfl⟩)
    · exact .fails _ (busFailure_fails h (.inr (h.fits hq)))
  · next hq =>
    split
    · exact .goesOn (setSeq_goesOn s .seekT2)
    · exact .fails _ (homeAbort_fails (h.fits hq) (.inr (.inr (h.fits hq))))
  · next hq =>
    split
    · exact takeStatus_acts (h.fits hq) _
    · exact .fails _ (homeAbort_fails (h.fits hq) (.inr (.inr (h.fits hq))))
  · exact .goesOn (.refl s)

theorem stepAction_acts : s.Acts s.stepAction := by
  unfold stepAction
  split
  · next i hq => exact fwdStep_acts (h.fits hq) i
  · next j hq => exact revStep_acts (.inl (h.fits hq)) j
  · next hq =>
    have hop : s.op = .opHome := h.fits hq
    obtain ⟨-, hseek⟩ := h.home hop
    rw [hq] at hseek
    obtain ⟨-, -, hbudget⟩ := hseek
    exact seekStep_acts hop hbudget
  · exact .goesOn (.refl s)

end Actions

end State

theorem act_acts {s t : State} (hinv : s.Inv) (h : act s = .next t) : s.Acts t := by
  unfold act at h
  split at h
  · next i hi =>
    have hframe (tx : Bytes5) := State.Prepares.transact hinv.csLow tx
    unfold State.pendingFrame at hi
    split at hi <;> cases hi <;> cases h
    · exact (State.afterWrite_acts (hinv.transact _) _).after (hframe _)
    all_goals exact (State.afterRead_acts (hinv.transact _) _).after (hframe _)
  · cases h
    exact State.stepAction_acts hinv

/-! ### Packets -/

/-- From `s` to `t` the trace grew by listed events, no operation ended, and motion began only where one started. -/
def State.Serves (s t : State) : Prop :=
  t.lastCode = s.lastCode ∧ (∃ new, s.GrowsBy new t) ∧
    (t.isMoving ≠ s.isMoving → s.op = .opNone ∧ (t.op = .opMove ∨ t.op = .opHome))

namespace State.Serves

theorem refl (s : State) : s.Serves s := ⟨rfl, ⟨[], GrowsBy.refl s⟩, absurd rfl⟩

/-- An operation that starts a motion from no operation. -/
theorem start {s t : State} {new : List Event} (lastCode : t.lastCode = s.lastCode) (grows : s.GrowsBy new t)
    (idle : s.op = .opNone) (op : t.op = .opMove ∨ t.op = .opHome) : s.Serves t :=
  ⟨lastCode, ⟨new, grows⟩, fun _ => ⟨idle, op⟩⟩

variable {s t : State}

theorem emit (h : s.Serves t) {e : Event} (he : e.Listed) : s.Serves (t.emit e) := by
  obtain ⟨hcode, ⟨new, hnew⟩, hmoving⟩ := h
  exact ⟨hcode, ⟨_, hnew.trans (GrowsBy.emit he t)⟩, hmoving⟩

theorem respond (h : s.Serves t) (cmd : Byte) (p : List Byte) : s.Serves (t.respond cmd .ok p) :=
  h.emit ⟨nofun, absurd rfl⟩

theorem refuse (h : s.Serves t) (cmd : Byte) {code : Code} (hcode : code ≠ .persistenceError) :
    s.Serves (t.refuse cmd code) :=
  h.emit ⟨hcode, fun _ => rfl⟩

theorem whenIdle (cmd : Byte) {run : State → State} (h : s.seq = .idle → s.Serves (run s)) :
    s.Serves (s.whenIdle cmd run) := by
  unfold State.whenIdle
  split
  · next hq => exact h hq
  · exact (refl s).refuse cmd nofun

theorem whenInitialized (cmd : Byte) {run : State → State} (h : s.Serves (run s)) :
    s.Serves (s.whenInitialized cmd run) := by
  unfold State.whenInitialized
  split
  · exact h
  · exact (refl s).refuse cmd nofun

theorem initBlock (s : State) : s.Serves s.initBlock :=
  ((refl s).emit (e := .evEnable true) trivial).respond Opcode.init.byte []

theorem requestCancel (s : State) : s.Serves s.requestCancel := by
  rw [requestCancel_eq]
  exact refl s

theorem setCfg (x : Byte) (v : Word) (s : State) : s.Serves (s.setCfg x v) := by
  unfold State.setCfg
  split
  · exact respond (refl s) _ _
  · exact (refl s).refuse _ nofun

theorem startMove (hop : s.op = .opNone) (target d0 dm ovs : Word) : s.Serves (s.startMove target d0 dm ovs) := by
  simp only [State.startMove]
  split
  · split
    · exact (refl s).respond _ _
    · split
      · exact start rfl (GrowsBy.emit (e := .evDir _) trivial s) hop (.inl rfl)
      · exact (refl s).refuse _ nofun
  · exact (refl s).refuse _ nofun

theorem startHome (hop : s.op = .opNone) (dir : Sign) (pred : Pred) : s.Serves (s.startHome dir pred) := by
  unfold State.startHome
  split
  · exact start rfl (GrowsBy.emit (e := .evDir dir) trivial s) hop (.inr rfl)
  · exact (refl s).refuse _ nofun

end State.Serves

theorem exec_serves {i : Instr} {s t : State} (hidle : s.seq = .idle → s.op = .opNone) (hp : i.port = .command)
    (h : exec i s = .next t) : s.Serves t := by
  have h0 := State.Serves.refl s
  have operation (cmd : Byte) {run : State → State} (hrun : s.op = .opNone → s.Serves (run s)) :
      s.Serves (s.whenIdle cmd (State.whenInitialized cmd run)) :=
    .whenIdle cmd fun hq => .whenInitialized cmd (hrun (hidle hq))
  cases i with
  | init => cases h; exact .whenIdle _ fun _ => .initBlock s
  | move => cases h; exact operation _ fun hop => .startMove hop ..
  | home => cases h; exact operation _ fun hop => .startHome hop ..
  | wreg | rreg => cases h; exact operation _ fun _ => ⟨rfl, ⟨[], .refl s⟩, absurd rfl⟩
  | decode | getpos | ismov => cases h; exact h0.respond _ _
  | cancel => cases h; exact (State.Serves.requestCancel s).respond _ _
  | setcfg x v => cases h; exact .whenIdle _ fun _ => .setCfg x v s
  | getcfg x =>
    simp only [exec, execGetcfg] at h
    split at h <;> cases h
    · exact h0.respond _ _
    · exact h0.refuse _ nofun
  | wframe | rframe => cases hp

theorem takePacket_serves {p : List Byte} {s t : State} (hidle : s.seq = .idle → s.op = .opNone)
    (h : takePacket p s = .next t) : s.Serves t := by
  unfold takePacket at h
  split at h
  · next i hi => exact exec_serves hidle (decodeCommand_port hi) h
  · cases h
    exact (State.Serves.refl s).refuse _ nofun

/-! ### Steps -/

theorem step_acts {s t : State} (hinv : s.Inv) (hact : s.agenda = [] ∨ s.agenda.head? = some .act)
    (h : step s = .next t) : s.Acts t := by
  rcases hact with ha | ha
  · exact act_acts hinv (step_nil s ha ▸ h)
  · obtain ⟨rest, ha⟩ := List.head?_eq_some_iff.1 ha
    exact (act_acts (hinv.withAgenda rest) (step_act s rest ha ▸ h)).after (.withAgenda s rest)

/-- What a step that is no reset can do: an action of the sequencer, or an input from outside that leaves `position`
alone and ends no operation. -/
theorem step_acts_or_serves {s t : State} (hinv : s.Inv) (h : step s = .next t) (hr : s.agenda.head? ≠ some .reset) :
    (s.agenda = [] ∨ s.agenda.head? = some .act) ∧ s.Acts t ∨ t.position = s.position ∧ s.Serves t := by
  by_cases hact : s.agenda = [] ∨ s.agenda.head? = some .act
  · exact .inl ⟨hact, step_acts hinv hact h⟩
  refine .inr ?_
  rcases ha : s.agenda with _ | ⟨p | _ | ⟨a, v⟩ | _, rest⟩
  · exact absurd (.inl ha) hact
  · rw [step_takes_packet ha] at h
    obtain ⟨_, -, -, -, hpos⟩ := takePacket_answers h
    exact ⟨hpos, takePacket_serves (s := { s with agenda := rest }) hinv.idle_iff.1 h⟩
  · exact absurd (.inr (by rw [ha]; rfl)) hact
  · rw [step_chipSet s a v rest ha] at h
    cases h
    exact ⟨rfl, .refl s⟩
  · exact absurd (by rw [ha]; rfl) hr

theorem State.Acts.goesOn_or_ends {s t : State} (h : s.Acts t) : s.GoesOn t ∨ ∃ code, s.Ends code t := by
  cases h with
  | goesOn hg => exact .inl hg
  | succeeds he => exact .inr ⟨_, he⟩
  | fails code hf => exact .inr ⟨code, hf.toEnds⟩

/-- Settles O50: only an action touches `position`, as the operation it serves allows; motion starts with a packet and
stops where its operation ends. -/
theorem onlyTheOwnerWritesPosition : Obligations.OnlyTheOwnerWritesPosition := by
  intro s t hinv h hr
  rcases step_acts_or_serves hinv h hr with ⟨hact, ha⟩ | ⟨hpos, -, -, hmoving⟩
  · refine ⟨fun _ => hact, ?_⟩
    rcases ha.goesOn_or_ends with hg | ⟨_, he⟩
    · exact ⟨fun hp => .inl (hg.position hp), absurd hg.isMoving⟩
    · refine ⟨he.position, fun hm => .inr ⟨hinv.moving.1 ?_, he.op⟩⟩
      rw [he.isMoving] at hm
      exact Bool.eq_true_of_not_eq_false hm.symm
  · exact ⟨absurd hpos, absurd hpos, fun hm => .inl (hmoving hm)⟩

/-- Settles O54: what a step adds to the trace is listed, and only the end of an operation records a code. -/
theorem onlyListedCodesAreSent : Obligations.OnlyListedCodesAreSent := by
  intro s t hinv h hr
  have hsent {new : List Event} (hg : s.GrowsBy new t) (cmd : Byte) (code : Code) (payload : List Byte)
      (he : Event.evResp cmd code payload ∈ new) :
      (codeByte code).toNat ≤ 8 ∧ codeByte code ≠ 0x04 ∧ (code ≠ .ok → payload = []) := by
    obtain ⟨hcode, hpayload⟩ := hg.2 _ he
    obtain ⟨hle, hne⟩ := codeByte_of_listed hcode
    exact ⟨hle, hne, hpayload⟩
  rcases step_acts_or_serves hinv h hr with ⟨-, ha⟩ | ⟨-, hcode, ⟨new, hnew⟩, -⟩
  · rcases ha.goesOn_or_ends with hg | ⟨code, he⟩
    · obtain ⟨new, hnew⟩ := hg.grows
      exact ⟨new, hnew.1, hsent hnew, absurd hg.lastCode⟩
    · obtain ⟨new, hnew, hresp⟩ := he.sends
      exact ⟨new, hnew.1, hsent hnew, fun _ => ⟨he.running, he.op, he.lastCode ▸ hresp⟩⟩
  · exact ⟨new, hnew.1, hsent hnew, absurd hcode⟩

/-- An action that ends an operation with another code than `OK` is a failure. -/
theorem State.Acts.fails_of_ended {s t : State} (h : s.Acts t) (hop : s.op ≠ .opNone) (hend : t.op = .opNone)
    (hcode : t.lastCode ≠ .ok) : s.Fails t.lastCode t := by
  cases h with
  | goesOn hg => exact absurd (hg.op.symm.trans hend) hop
  | succeeds he => exact absurd he.lastCode hcode
  | fails code hf => exact hf.lastCode.symm ▸ hf

/-- Settles O55: an action that ends an operation with an error is a failure, with its cause and its clean-up. -/
theorem failuresCleanUp : Obligations.FailuresCleanUp := by
  intro s t hinv hact h hop hend hcode
  have hf := (step_acts hinv hact h).fails_of_ended hop hend hcode
  refine ⟨hf.seq, hf.isMoving, hf.cancelReq, hf.lines ▸ hinv.stepLow, hf.lines ▸ hinv.csLow,
    congrArg Lines.enableOn hf.lines, congrArg Lines.dirSign hf.lines, hf.cfg, hf.place,
    fun hh => hf.hstate.trans (if_pos hh), fun hh => hf.hstate.trans (if_neg hh), ?_, ?_, ?_⟩
  all_goals
    intro hc
    have hcause := hf.cause
    rwa [hc] at hcause

/-- Settles O56: of the steps that are no reset only INIT at `Idle` does not keep the line, and it asserts it. -/
theorem enableIsAssertedByInitAlone : Obligations.EnableIsAssertedByInitAlone := by
  refine ⟨rfl, fun s t h hr => ?_⟩
  rcases step_extends h hr with hx | ⟨hp, hq, rfl⟩
  · rw [hx.enableOn]
    exact ⟨id, fun hoff hon => absurd (hoff.symm.trans hon) (by decide)⟩
  · exact ⟨fun _ => rfl, fun _ _ => ⟨hp, hq⟩⟩

end Sys2Proof.Machine
end

section
/-! ## The reset input -/

namespace Sys2Proof.Machine

/-- A reset input is taken off the agenda and applied. -/
theorem step_reset {s : State} {rest : List Input} (h : s.agenda = .reset :: rest) :
    step s = .next { s with agenda := rest }.applyReset := by simp only [step, h]

/-- Settles O2: the reset is applied to the state whose agenda is what is left; of that state `applyReset` keeps the
chip, the agenda and the count of free values. -/
theorem resetInputAbandonsTheOperation : Obligations.ResetInputAbandonsTheOperation := by
  intro s rest h
  calc
    step s = .next { s with agenda := rest }.applyReset := step_reset h
    _ = .next { State.reset with peer := s.peer, agenda := rest, draws := s.draws } := rfl

end Sys2Proof.Machine
end

section
/-! ## Every step keeps the invariant

One lemma per operation, in the order of the model. An action that ends an operation is covered by `State.Inv.ended`;
of one that goes on, the lemma gives the clauses it changes and takes the others from the state before. What needs an
argument is the run of a MOVE, which must stay inside 32 bits (`40_ramp_timer.md` R96), and the counters of the seek. -/

namespace Sys2Proof.Machine

/-! ### The field table and the reset -/

theorem fieldLegal_legalEntry (e : FieldEntry) : fieldLegal (Config.legalEntry e) = true := by
  have hl := e.lsb.isLt
  unfold Config.legalEntry
  split
  · next h =>
    rw [fieldLegal, decide_eq_true_iff]
    omega
  · rw [fieldLegal, decide_eq_true_iff]
    exact ⟨Nat.zero_le _, hl.le⟩

theorem State.reset_fields_legal (k : Fin 8) : fieldLegal State.reset.cfg.fields[k] = true := by
  have hk : State.reset.cfg.fields[k] = Config.legalEntry (Config.descFieldRaw k) := Vector.getElem_ofFn k.isLt
  rw [hk]
  exact fieldLegal_legalEntry _

/-- The reset input leaves the block at rest, and the chip as it was. -/
theorem State.Inv.applyReset {s : State} (mem : s.peer.mem.wf = true) : s.applyReset.Inv :=
  .atIdle rfl rfl rfl rfl (.inl rfl) trivial rfl rfl rfl State.reset_fields_legal mem

/-- Settles O46: at reset the block is idle and its field table is that of a legal descriptor. -/
theorem resetSatisfiesTheInvariant : Obligations.ResetSatisfiesTheInvariant :=
  State.Inv.applyReset (s := State.reset) rfl

/-- SETCFG writes a legal field table entry or none. -/
theorem Cfg.write_fields_legal {c c' : Cfg} {r : CfgReg} {v : Word} (h : c.write r v = some c')
    (hc : ∀ k : Fin 8, fieldLegal c.fields[k] = true) (k : Fin 8) : fieldLegal c'.fields[k] = true := by
  cases r
  case statusaddr =>
    simp only [Cfg.write] at h
    split at h <;> cases h
    exact hc k
  case field f =>
    simp only [Cfg.write] at h
    split at h <;> cases h
    next hv =>
      simp only [Fin.getElem_fin, Vector.getElem_set]
      split
      · exact hv
      · exact hc k
  case status => cases h
  all_goals
    cases h
    exact hc k

/-! ### Numbers and latches -/

theorem signToInt_signOfInt_mul_natAbs (a : Int) : signToInt (signOfInt a) * a.natAbs = a := by
  unfold signOfInt
  split <;> simp only [signToInt] <;> omega

/-- A count below some word does not wrap (`10_state.md` R15). -/
theorem toNat_add_one_of_lt {v b : Word} (h : v.toNat < b.toNat) : (v + 1).toNat = v.toNat + 1 := by
  have hb := b.isLt
  exact BitVec.toNat_add_of_lt (by simp; omega)

/-- The latch of a new run (`40_ramp_timer.md` R93). -/
theorem profOf_wf {n : Nat} {d0 dm : Word} (g : Sign) (ovs start : Word) (x : Ctx) (pos : 1 ≤ n) (lt : n < 2 ^ 32)
    (delays : delaysValid d0 dm = true) : (profOf g n ovs d0 dm start x).Wf := ⟨pos, lt, rfl, rfl, delays⟩

theorem hstateFits_settled {op : Op} {hs : HState} (q : Seq) (hop : op ≠ .opHome) (h : hs = .hIdle ∨ hs = .hZeroed) :
    hstateFits op q hs := by
  simpa [hstateFits, hop] using h

namespace State

variable {s : State} {code : Code}

/-! ### Actions at `Idle` -/

/-- Outside HOME the last HOME has been abandoned or has zeroed (`42_homing.md` R140). -/
theorem Inv.hstate_settled (h : s.Inv) (hop : s.op ≠ .opHome) : s.hstate = .hIdle ∨ s.hstate = .hZeroed := by
  simpa [hstateFits, hop] using h.hstate

/-- At `Idle` nothing moves, no cancel is pending, and a HOME has been abandoned or has zeroed. -/
theorem Inv.at_rest (h : s.Inv) (hq : s.seq = .idle) :
    s.op = .opNone ∧ s.isMoving = false ∧ s.cancelReq = false ∧ (s.hstate = .hIdle ∨ s.hstate = .hZeroed) := by
  have hop := h.idle_iff.1 hq
  refine ⟨hop, h.not_moving (by simp [hop]) (by simp [hop]), Bool.eq_false_iff.2 fun hc => ?_,
    h.hstate_settled (by simp [hop])⟩
  simpa [hop] using h.cancel hc

theorem Inv.respond (h : s.Inv) (cmd : Byte) (p : List Byte) : (s.respond cmd code p).Inv :=
  h.quiet rfl rfl rfl rfl rfl rfl rfl rfl rfl rfl rfl rfl rfl h.mem

theorem Inv.refuse (h : s.Inv) (cmd : Byte) : (s.refuse cmd code).Inv := h.respond cmd []

theorem Inv.chipSet (h : s.Inv) (a : Addr) (v : Word) : (s.chipSet a v).Inv :=
  h.quiet rfl rfl rfl rfl rfl rfl rfl rfl rfl rfl rfl rfl rfl (Memory.wf_writeReg _ a v h.mem)

theorem Inv.requestCancel (h : s.Inv) : s.requestCancel.Inv := by
  rw [requestCancel_eq]
  refine { h with cancel := fun hc => ?_, move := fun hop => { h.move hop with } }
  by_cases hop : s.op = .opMove ∨ s.op = .opHome
  · exact hop
  · exact h.cancel (by simpa only [if_neg hop] using hc)

section AtIdle

variable (h : s.Inv) (hq : s.seq = .idle)
include h hq

theorem Inv.initBlock : s.initBlock.Inv := by
  obtain ⟨hop, hmoving, hcancel, hhstate⟩ := h.at_rest hq
  exact .atIdle hop hq hmoving hcancel hhstate h.lastCode rfl rfl rfl h.fields h.mem

theorem Inv.setCfg (x : Byte) (v : Word) : (s.setCfg x v).Inv := by
  obtain ⟨hop, hmoving, hcancel, hhstate⟩ := h.at_rest hq
  unfold State.setCfg
  split
  · next c hc =>
    obtain ⟨r, -, hw⟩ := Option.bind_eq_some_iff.1 hc
    exact .atIdle hop hq hmoving hcancel hhstate h.lastCode h.stepLow h.csLow h.enabled
      (Cfg.write_fields_legal hw h.fields) h.mem
  · exact h.refuse _

end AtIdle

/-! ### The start of an operation -/

theorem Inv.startHome (h : s.Inv) (hi : s.initialized = true) (dir : Sign) (pred : Pred) :
    (s.startHome dir pred).Inv := by
  by_cases hready : s.cfg.homeReady pred = true
  · have hn : 0 < s.cfg.homen.toNat := by
      have hu := (s.cfg.homeReady_iff pred).1 hready
      omega
    rw [startHome_usable dir hready]
    exact { h with
      busyInit := fun _ => hi, seqFits := rfl, moving := by simp, cancel := fun _ => .inr rfl, hstate := rfl,
      run := trivial, move := nofun, home := fun _ => ⟨hready, rfl, hn, Nat.zero_le _⟩ }
  · rw [startHome_unusable dir hready]
    exact h.refuse _

section Start

variable (h : s.Inv) (hq : s.seq = .idle) (hi : s.initialized = true)
include h hq hi

theorem Inv.startWreg (a : Addr) (v : Word) : (s.startWreg a v).Inv := by
  obtain ⟨-, hmoving, hcancel, hhstate⟩ := h.at_rest hq
  exact { h with
    busyInit := fun _ => hi, seqFits := rfl, moving := by simp [State.startWreg, hmoving],
    cancel := by simp [State.startWreg, hcancel], hstate := hhstate, run := trivial, move := nofun, home := nofun }

theorem Inv.startRreg (a : Addr) : (s.startRreg a).Inv := by
  obtain ⟨-, hmoving, hcancel, hhstate⟩ := h.at_rest hq
  exact { h with
    busyInit := fun _ => hi, seqFits := rfl, moving := by simp [State.startRreg, hmoving],
    cancel := by simp [State.startRreg, hcancel], hstate := hhstate, run := trivial, move := nofun, home := nofun }

theorem Inv.moveStarted {t d0 dm ovs : Word} {g : Sign} {n : Nat} (hv : delaysValid d0 dm = true) (hn : 1 ≤ n)
    (ht : t.toInt = s.position.toInt + signToInt g * n) (hf : fitsS32 (t.toInt + signToInt g * ovs.toNat) = true) :
    (s.moveStarted t d0 dm ovs g n).Inv := by
  obtain ⟨-, -, -, hhstate⟩ := h.at_rest hq
  have hlt : n < 2 ^ 32 := by
    have := t.toInt_lt
    have := t.le_toInt
    have := s.position.toInt_lt
    have := s.position.le_toInt
    cases g <;> simp only [signToInt] at ht <;> omega
  have hinside : s.position.toInt + signToInt g * (n + ovs.toNat : Nat) = t.toInt + signToInt g * ovs.toNat := by
    rw [ht]
    push_cast
    ring
  have hplace (b : Bool) : s.position.toInt = s.position.toInt + if b then signToInt g * 0 else 0 := by simp
  exact { h with
    busyInit := fun _ => hi, seqFits := .inl ⟨rfl, rfl⟩, moving := by simp [State.moveStarted],
    cancel := fun _ => .inl rfl, hstate := hhstate,
    run := ⟨profOf_wf g ovs _ _ hn hlt hv, Nat.add_pos_left hn _, rfl, rfl⟩,
    move := fun _ => ⟨⟨rfl, rfl, rfl⟩, ht, hinside ▸ hf, hplace _⟩, home := nofun }

theorem Inv.startMove (t d0 dm ovs : Word) : (s.startMove t d0 dm ovs).Inv := by
  by_cases hv : delaysValid d0 dm = true
  · by_cases hne : t.toInt = s.position.toInt
    · rw [startMove_here ovs hv hne]
      exact h.respond _ _
    · by_cases hf : fitsS32 (t.toInt + signToInt (signOfInt (t.toInt - s.position.toInt)) * ovs.toNat) = true
      · rw [startMove_accepted hv hne rfl rfl (fitsS32_iff.1 hf)]
        refine h.moveStarted hq hi hv (by omega) ?_ hf
        rw [signToInt_signOfInt_mul_natAbs]
        omega
      · rw [startMove_outside hv hne rfl (mt fitsS32_iff.2 hf)]
        exact h.refuse _
  · rw [startMove_invalid ovs (Bool.eq_false_iff.2 hv)]
    exact h.refuse _

end Start

end State

/-! ### The steps of a run -/

/-- What a MOVE in progress is depends on its request, its run, the configuration and `position` alone. -/
theorem MoveInv.of_eq {s t : State} (h : MoveInv s) (position : t.position = s.position) (req : t.req = s.req)
    (prof : t.prof = s.prof) (cfg : t.cfg = s.cfg) : MoveInv t := by
  obtain ⟨hreq, htarget, hinside, hplace⟩ := h
  rw [← req, ← prof] at hreq
  exact ⟨hreq, by rwa [req, prof], by rwa [prof], by rwa [position, prof, cfg]⟩

/-- A place between two places inside 32 bits is inside 32 bits (R96). -/
theorem fitsS32_between {a : Int} {g : Sign} {n m : Int} (ha : fitsS32 a = true)
    (hm : fitsS32 (a + signToInt g * m) = true) (h0 : 0 ≤ n) (hnm : n ≤ m) : fitsS32 (a + signToInt g * n) = true := by
  rw [fitsS32_iff] at *
  cases g <;> simp only [signToInt] at * <;> omega

/-- A counted step of a MOVE that stays between the start and the far end of the run. -/
theorem MoveInv.count {s : State} {dir : Int} (h : MoveInv s) (hctx : s.prof.ctx = .ctxMove) (d : Rat)
    (hlo : 0 ≤ s.prof.net + dir) (hhi : s.prof.net + dir ≤ s.prof.total) :
    MoveInv ((s.pulse d).countStep dir) := by
  have hfits := fitsS32_between (fitsS32_toInt _) h.inside hlo hhi
  refine ⟨h.request, h.target, h.inside, ?_⟩
  simp only [State.countStep_position, State.countStep_prof, State.countStep_cfg, State.pulse_cfg, State.pulse_prof,
    State.pulse_position, hctx, and_true, h.position]
  split
  · rw [mul_comm dir, add_assoc, ← mul_add, toInt_encS32 _ hfits]
  · next hp => rw [h.position, if_neg hp]

/-- The latch of a run depends on its count of net steps for nothing but that count. -/
theorem Prof.Wf.setNet {p : Prof} (h : p.Wf) (net : Int) : { p with net := net }.Wf := { h with }

namespace State

variable {s : State} {code : Code}

theorem OwnsRun.ctx_of_move (h : s.OwnsRun) (hop : s.op = .opMove) : s.prof.ctx = .ctxMove := by
  rcases h with ⟨-, hctx⟩ | ⟨hhome, -⟩
  · exact hctx
  · exact absurd (hop.symm.trans hhome) nofun

section Run

variable (h : s.Inv)
include h

theorem Inv.homeAbort (hcode : endCode code) : (s.homeAbort code).Inv :=
  h.ended rfl rfl rfl rfl (.inl rfl) hcode h.stepLow h.csLow rfl rfl rfl h.mem

theorem Inv.cancelRun (hown : s.OwnsRun) : s.cancelRun.Inv := by
  rcases hown with ⟨hop, hctx⟩ | ⟨-, hctx⟩
  · rw [cancelRun_move s hctx]
    exact h.ended rfl rfl rfl rfl (h.hstate_settled (by simp [hop])) trivial h.stepLow h.csLow rfl rfl rfl h.mem
  · rw [cancelRun_home s hctx]
    exact h.homeAbort trivial

/-- The last step of a run ends its operation. -/
theorem Inv.finish_counted (hown : s.OwnsRun) (d : Rat) (dir : Int) : ((s.pulse d).countStep dir).finish.Inv := by
  rcases hown with ⟨hop, hctx⟩ | ⟨-, hctx⟩
  · rw [finish_move _ (by exact hctx)]
    exact h.ended rfl rfl rfl rfl (h.hstate_settled (by simp [hop])) trivial rfl h.csLow rfl rfl rfl h.mem
  · rw [finish_home _ (by exact hctx)]
    exact h.ended rfl rfl rfl rfl (.inr rfl) trivial rfl h.csLow rfl rfl rfl h.mem

/-- A back-off is the configured run, without overshoot. -/
theorem Inv.backOff {i : Nat} (hq : s.seq = .fwd i) (hop : s.op = .opHome) :
    s.cfg.homeReady s.hom.pred = true ∧ s.prof.sign = signFlip s.hom.sign ∧ s.prof.n = s.cfg.homeoffset.toNat ∧
      s.prof.ovs = 0 ∧ s.prof.d0 = s.cfg.boidelay ∧ s.prof.dm = s.cfg.bomdelay := by
  have hhome := h.home hop
  rw [HomeInv, hq] at hhome
  exact hhome

theorem Inv.fwdStep {i : Nat} (hq : s.seq = .fwd i) : (s.fwdStep i).Inv := by
  have hown : s.OwnsRun := h.fits hq
  obtain ⟨hwf, hi, hnet, hdir⟩ : RunInv s.prof s.lines.dirSign (.fwd i) := hq ▸ h.run
  have hcount (hop : s.op = .opMove) : MoveInv ((s.pulse (s.prof.delay i)).countStep 1) :=
    (h.move hop).count (hown.ctx_of_move hop) _ (by omega) (by omega)
  by_cases hc : s.cancelReq = true
  · rw [fwdStep_cancelled i s hc]
    exact h.cancelRun hown
  rw [Bool.not_eq_true] at hc
  by_cases hmore : i + 1 < s.prof.total
  · rw [fwdStep_more i s hc hmore]
    have hfits : hstateFits s.op (.fwd i) s.hstate := hq ▸ h.hstate
    have hnet' : s.prof.net + 1 = (i + 1 : Nat) := by omega
    exact { h with
      stepLow := rfl, seqFits := hown, hstate := hfits, run := ⟨hwf.setNet _, hmore, hnet', hdir⟩,
      move := fun hop => (hcount hop).of_eq rfl rfl rfl rfl, home := fun hop => h.backOff hq hop }
  by_cases hovs : 0 < s.prof.ovs.toNat
  · rw [fwdStep_turns i s hc (by omega) hovs]
    have hmove : s.op = .opMove ∧ s.prof.ctx = .ctxMove := hown.resolve_right fun ⟨hop, _⟩ => by
      obtain ⟨-, -, -, h0, -⟩ := h.backOff hq hop
      simp [h0] at hovs
    have hnohome : s.op ≠ .opHome := by simp [hmove]
    have hnet' : s.prof.net + 1 = s.prof.total - (0 : Nat) := by omega
    exact { h with
      stepLow := rfl, seqFits := hmove, hstate := hstateFits_settled (.rev 0) hnohome (h.hstate_settled hnohome),
      run := ⟨hwf.setNet _, hovs, hnet', rfl⟩,
      move := fun hop => (hcount hop).of_eq rfl rfl rfl rfl, home := fun hop => absurd hop hnohome }
  · rw [fwdStep_last i s hc (by omega) (by omega)]
    exact h.finish_counted hown _ _

theorem Inv.revStep {j : Nat} (hq : s.seq = .rev j) : (s.revStep j).Inv := by
  have hmove : s.op = .opMove ∧ s.prof.ctx = .ctxMove := h.fits hq
  obtain ⟨hwf, hj, hnet, hdir⟩ : RunInv s.prof s.lines.dirSign (.rev j) := hq ▸ h.run
  have htotal := hwf.total
  by_cases hc : s.cancelReq = true
  · rw [revStep_cancelled j s hc]
    exact h.cancelRun (.inl hmove)
  rw [Bool.not_eq_true] at hc
  by_cases hmore : j + 1 < s.prof.ovs.toNat
  · rw [revStep_more j s hc hmore]
    have hnohome : s.op ≠ .opHome := by simp [hmove]
    have hnet' : s.prof.net + -1 = s.prof.total - (j + 1 : Nat) := by omega
    exact { h with
      stepLow := rfl, seqFits := hmove, hstate := hstateFits_settled (.rev (j + 1)) hnohome (h.hstate_settled hnohome),
      run := ⟨hwf.setNet _, hmore, hnet', hdir⟩,
      move := fun hop => ((h.move hop).count hmove.2 _ (by omega) (by omega)).of_eq rfl rfl rfl rfl,
      home := fun hop => absurd hop hnohome }
  · rw [revStep_last j s hc (by omega)]
    exact h.finish_counted (.inl hmove) _ _

end Run

/-! ### The seek -/

/-- What the invariant says of a seek at any of its boundaries. -/
theorem Inv.seeking (h : s.Inv) (hk : s.seq.inSeek = true) : s.op = .opHome ∧ s.hstate = .hSeeking ∧
    s.cfg.homeReady s.hom.pred = true ∧ s.lines.dirSign = s.hom.sign ∧ s.hom.c.toNat < s.cfg.homen.toNat ∧
    s.hom.s.toNat ≤ s.cfg.homebudget.toNat ∧ (s.seq ≠ .seekStep → 1 ≤ s.hom.s.toNat) := by
  have hfits := h.seqFits
  have hhstate := h.hstate
  have hhome := h.home
  unfold HomeInv at hhome
  cases hq : s.seq <;> rw [hq] at hk hfits hhstate hhome <;> cases hk
  case seekStep =>
    have hop : s.op = .opHome := hfits
    obtain ⟨hready, hdir, hcount, hbudget⟩ := hhome hop
    exact ⟨hop, by simpa [hstateFits, hop] using hhstate, hready, hdir, hcount, hbudget, absurd rfl⟩
  all_goals
    have hop : s.op = .opHome := hfits
    obtain ⟨hready, hdir, hcount, hbudget, hone⟩ := hhome hop
    exact ⟨hop, by simpa [hstateFits, hop] using hhstate, hready, hdir, hcount, hbudget, fun _ => hone⟩

section Seek

variable (h : s.Inv)
include h

theorem Inv.seekStep (hq : s.seq = .seekStep) : s.seekStep.Inv := by
  obtain ⟨hop, hseeking, hready, hdir, hcount, hbudget, -⟩ := h.seeking (by rw [hq]; rfl)
  by_cases hc : s.cancelReq = true
  · rw [seekStep_cancelled s hc]
    exact h.homeAbort trivial
  rw [Bool.not_eq_true] at hc
  by_cases hb : s.hom.s.toNat < s.cfg.homebudget.toNat
  · have hs : (s.hom.s + 1).toNat = s.hom.s.toNat + 1 := toNat_add_one_of_lt hb
    have hbudget' : (s.hom.s + 1).toNat ≤ s.cfg.homebudget.toNat := by omega
    have hone : 1 ≤ (s.hom.s + 1).toNat := by omega
    rw [seekStep_pulses s hc hb]
    exact { h with
      stepLow := rfl, seqFits := hop, hstate := by simp [hstateFits, hop, hseeking], run := trivial,
      move := fun hmove => absurd (hop.symm.trans hmove) nofun,
      home := fun _ => ⟨hready, hdir, hcount, hbudget', hone⟩ }
  · rw [seekStep_exhausted s hc (by omega)]
    exact h.homeAbort trivial

/-- The status read left at its first reply. -/
theorem Inv.statusReplied (hq : s.seq = .seekT1) : { s with seq := .seekT2 }.Inv := by
  obtain ⟨hop, hseeking, hready, hdir, hcount, hbudget, hone⟩ := h.seeking (by rw [hq]; rfl)
  exact { h with
    seqFits := hop, hstate := by simp [hstateFits, hop, hseeking], run := trivial,
    move := fun hmove => absurd (hop.symm.trans hmove) nofun,
    home := fun _ => ⟨hready, hdir, hcount, hbudget, hone (by simp [hq])⟩ }

theorem Inv.takeStatus (hq : s.seq = .seekT2) (w : Word) : (s.takeStatus w).Inv := by
  obtain ⟨hop, hseeking, hready, hdir, -, hbudget, -⟩ := h.seeking (by rw [hq]; rfl)
  by_cases hcount : (s.debounced w).toNat < s.cfg.homen.toNat
  · rw [takeStatus_continues w s hcount]
    exact { h with
      seqFits := hop, hstate := by simp [hstateFits, hop, hseeking], run := trivial,
      move := fun hmove => absurd (hop.symm.trans hmove) nofun, home := fun _ => ⟨hready, hdir, hcount, hbudget⟩ }
  by_cases hoffset : s.cfg.homeoffset.toNat = 0
  · rw [takeStatus_confirms w s (by omega), confirm_at_once ?_ ?_]
    · exact h.ended rfl rfl rfl rfl (.inr rfl) trivial h.stepLow h.csLow rfl rfl rfl h.mem
    · exact hop
    · exact hoffset
  · have hpos : 0 < s.cfg.homeoffset.toNat := Nat.pos_of_ne_zero hoffset
    have hv : delaysValid s.cfg.boidelay s.cfg.bomdelay = true := by
      have hu := (s.cfg.homeReady_iff s.hom.pred).1 hready
      rw [delaysValid_iff]
      omega
    have hwf := profOf_wf (signFlip s.hom.sign) 0 s.position .ctxHome hpos s.cfg.homeoffset.isLt hv
    rw [takeStatus_confirms w s (by omega), confirm_backs_off ?_]
    · exact { h with
        seqFits := .inr ⟨hop, rfl⟩, hstate := by simp [hstateFits, hop], run := ⟨hwf, hpos, rfl, rfl⟩,
        move := fun hmove => absurd (hop.symm.trans hmove) nofun,
        home := fun _ => ⟨hready, rfl, rfl, rfl, rfl, rfl⟩ }
    · exact hpos

end Seek

/-! ### What follows a transaction, and the other actions -/

section Actions

variable (h : s.Inv)
include h

/-- A WREG or RREG ends without motion, whatever it leaves in the bus latches. -/
theorem Inv.clientEnds (hop : s.op = .opWreg ∨ s.op = .opRreg) (hcode : endCode code) (b : BusLatch) (p : List Byte) :
    ({ s with bus := b }.complete code p).Inv := by
  obtain ⟨-, hmove, hhome⟩ := client_op_ne hop
  exact h.ended rfl rfl (h.not_moving hmove hhome) rfl (h.hstate_settled hhome) hcode h.stepLow h.csLow rfl rfl rfl
    h.mem

theorem Inv.readRequested (hq : s.seq = .rdT1) : { s with seq := .rdT2 }.Inv := by
  have hop : s.op = .opRreg := h.fits hq
  obtain ⟨-, hmove, hhome⟩ := client_op_ne (.inr hop)
  exact { h with
    seqFits := hop, hstate := hstateFits_settled .rdT2 hhome (h.hstate_settled hhome), run := trivial,
    move := fun hm => absurd hm hmove, home := fun hh => absurd hh hhome }

theorem Inv.afterWrite (o : TxnOutcome) : (s.afterWrite o).Inv := by
  by_cases hq : s.seq = .wrT
  · have hop : s.op = .opWreg := h.fits hq
    cases o with
    | ok rx => rw [afterWrite_ok hq]; exact h.clientEnds (code := .ok) (.inl hop) trivial s.bus []
    | fail => rw [afterWrite_fail hq]; exact h.clientEnds (code := .busError) (.inl hop) trivial s.bus []
  · rw [afterWrite_unawaited hq]
    exact h

theorem Inv.afterRead (o : TxnOutcome) : (s.afterRead o).Inv := by
  unfold State.afterRead
  split
  · next hq =>
    split
    · exact h.readRequested hq
    · exact h.clientEnds (code := .busError) (.inr (h.fits hq)) trivial s.bus []
  · next hq =>
    split
    · exact h.clientEnds (code := .ok) (.inr (h.fits hq)) trivial _ _
    · exact h.clientEnds (code := .busError) (.inr (h.fits hq)) trivial s.bus []
  · next hq =>
    split
    · exact h.statusReplied hq
    · exact h.homeAbort trivial
  · next hq =>
    split
    · exact h.takeStatus hq _
    · exact h.homeAbort trivial
  · exact h

theorem Inv.stepAction : s.stepAction.Inv := by
  unfold State.stepAction
  split
  · next hq => exact h.fwdStep hq
  · next hq => exact h.revStep hq
  · next hq => exact h.seekStep hq
  · exact h

end Actions

/-! ### Packets -/

theorem Inv.whenIdle (h : s.Inv) (cmd : Byte) {run : State → State} (hrun : s.seq = .idle → (run s).Inv) :
    (s.whenIdle cmd run).Inv := by
  unfold State.whenIdle
  split
  · next hq => exact hrun hq
  · exact h.refuse cmd

theorem Inv.whenInitialized (h : s.Inv) (cmd : Byte) {run : State → State}
    (hrun : s.initialized = true → (run s).Inv) : (s.whenInitialized cmd run).Inv := by
  unfold State.whenInitialized
  split
  · next hi => exact hrun hi
  · exact h.refuse cmd

end State

theorem exec_inv {i : Instr} {s t : State} (hinv : s.Inv) (h : exec i s = .next t) : t.Inv := by
  have operation (cmd : Byte) {run : State → State} (hrun : s.seq = .idle → s.initialized = true → (run s).Inv) :
      (s.whenIdle cmd (State.whenInitialized cmd run)).Inv :=
    hinv.whenIdle cmd fun hq => hinv.whenInitialized cmd (hrun hq)
  cases i with
  | init => cases h; exact hinv.whenIdle _ hinv.initBlock
  | move => cases h; exact operation _ fun hq hi => hinv.startMove hq hi ..
  | home => cases h; exact operation _ fun _ hi => hinv.startHome hi ..
  | wreg => cases h; exact operation _ fun hq hi => hinv.startWreg hq hi ..
  | rreg => cases h; exact operation _ fun hq hi => hinv.startRreg hq hi _
  | decode | getpos | ismov => cases h; exact hinv.respond _ _
  | cancel => cases h; exact hinv.requestCancel.respond _ _
  | setcfg x v => cases h; exact hinv.whenIdle _ fun hq => hinv.setCfg hq x v
  | getcfg x =>
    simp only [exec, execGetcfg] at h
    split at h <;> cases h
    · exact hinv.respond _ _
    · exact hinv.refuse _
  | wframe => cases h; exact (hinv.transact _).afterWrite _
  | rframe => cases h; exact (hinv.transact _).afterRead _

theorem takePacket_inv {p : List Byte} {s t : State} (hinv : s.Inv) (h : takePacket p s = .next t) : t.Inv := by
  unfold takePacket at h
  split at h
  · exact exec_inv hinv h
  · cases h
    exact hinv.refuse _

theorem act_inv {s t : State} (hinv : s.Inv) (h : act s = .next t) : t.Inv := by
  unfold act at h
  split at h
  · exact exec_inv hinv h
  · cases h
    exact hinv.stepAction

/-- Settles O47, by what is next on the agenda. -/
theorem everyStepKeepsTheInvariant : Obligations.EveryStepKeepsTheInvariant := by
  intro s t hinv h
  rcases ha : s.agenda with _ | ⟨p | _ | ⟨a, v⟩ | _, rest⟩
  · exact act_inv hinv (step_nil s ha ▸ h)
  · exact takePacket_inv (hinv.withAgenda rest) (step_takes_packet ha ▸ h)
  · exact act_inv (hinv.withAgenda rest) (step_act s rest ha ▸ h)
  · rw [step_chipSet s a v rest ha] at h
    cases h
    exact (hinv.withAgenda rest).chipSet a v
  · rw [step_reset ha] at h
    cases h
    exact State.Inv.applyReset (s := { s with agenda := rest }) hinv.mem

end Sys2Proof.Machine
end

section
/-! ## The frames accepted, the answer of ISMOV, and that every step answers -/

namespace Sys2Proof

theorem be32_eq_zero_iff (d3 d2 d1 d0 : Byte) : be32 d3 d2 d1 d0 = 0 ↔ d3 = 0 ∧ d2 = 0 ∧ d1 = 0 ∧ d0 = 0 := by
  constructor
  · intro h
    obtain ⟨h3, h2, h1, h0⟩ := byteOf_be32 d3 d2 d1 d0
    rw [h] at h3 h2 h1 h0
    exact ⟨h3.symm, h2.symm, h1.symm, h0.symm⟩
  · rintro ⟨rfl, rfl, rfl, rfl⟩
    rfl

/-- The write flag is the top bit of the header (`30_encoding.md` R60). -/
theorem writeFlag_iff (h : Byte) : h.getLsbD 7 = true ↔ 128 ≤ h.toNat := by
  revert h
  decide

theorem decodeFrame_wrong_length {f : List Byte} (h : f.length ≠ 5) : decodeFrame f = .illegal .wrongLength := by
  unfold decodeFrame
  split
  · exact absurd rfl h
  · rfl

theorem frameLegal_wrong_length {f : List Byte} (h : f.length ≠ 5) : frameLegal f = false := by
  unfold frameLegal
  split
  · exact absurd rfl h
  · rfl

/-- Five bytes decode to a frame when the write flag is set or the payload is zero. -/
theorem decodeFrame_five_iff (h d3 d2 d1 d0 : Byte) : (∃ i, decodeFrame [h, d3, d2, d1, d0] = .instr i) ↔
    h.getLsbD 7 = true ∨ be32 d3 d2 d1 d0 = 0 := by
  by_cases hw : h.getLsbD 7 = true
  · exact ⟨fun _ => .inl hw, fun _ => ⟨_, if_pos hw⟩⟩
  · by_cases hz : be32 d3 d2 d1 d0 = 0
    · exact ⟨fun _ => .inr hz, fun _ => ⟨_, (if_neg hw).trans (if_pos hz)⟩⟩
    · have hill : decodeFrame [h, d3, d2, d1, d0] = .illegal .payloadOnRead := (if_neg hw).trans (if_neg hz)
      exact ⟨fun ⟨i, hi⟩ => absurd (hill.symm.trans hi) nofun, fun hor => (hor.elim hw hz).elim⟩

/-- Settles O8: five bytes by the flag and the payload, and no other length. -/
theorem frameDecoderAcceptsExactlySentFrames : Obligations.FrameDecoderAcceptsExactlySentFrames := by
  intro f
  by_cases hlen : f.length = 5
  · obtain ⟨h, d3, d2, d1, d0, rfl⟩ : ∃ h d3 d2 d1 d0, f = [h, d3, d2, d1, d0] := by
      match f, hlen with
      | [h, d3, d2, d1, d0], _ => exact ⟨h, d3, d2, d1, d0, rfl⟩
    rw [decodeFrame_five_iff, writeFlag_iff, be32_eq_zero_iff]
    simp [frameLegal, and_assoc]
  · simp [decodeFrame_wrong_length hlen, frameLegal_wrong_length hlen]

end Sys2Proof

namespace Sys2Proof.Machine

/-- Settles O14: the answer is the flag's byte, and the flag is a clause of the invariant. -/
theorem ismovTellsMoveOrHome : Obligations.IsmovTellsMoveOrHome := by
  intro s
  exact ⟨rfl, fun h => h.moving⟩

/-- Every instruction has a meaning and none stops the machine. -/
theorem exec_next (i : Instr) (s : State) : ∃ t, exec i s = .next t := by
  cases i with
  | getcfg x =>
    simp only [exec, execGetcfg]
    split <;> exact ⟨_, rfl⟩
  | _ => exact ⟨_, rfl⟩

theorem act_next (s : State) : ∃ t, act s = .next t := by
  unfold act
  split
  · exact exec_next _ s
  · exact ⟨_, rfl⟩

/-- Settles O45, by what is next on the agenda. -/
theorem everyStepAnswersANextState : Obligations.EveryStepAnswersANextState := by
  intro s
  rcases ha : s.agenda with _ | ⟨p | _ | ⟨a, v⟩ | _, rest⟩
  · rw [step_nil s ha]
    exact act_next s
  · rw [step_takes_packet ha, takePacket]
    split
    · exact exec_next _ _
    · exact ⟨_, rfl⟩
  · rw [step_act s rest ha]
    exact act_next _
  · exact ⟨_, step_chipSet s a v rest ha⟩
  · exact ⟨_, step_reset ha⟩

end Sys2Proof.Machine
end

section
/-! ## WREG and RREG with the reference peer

A WREG from its packet to its response, a RREG from its packet to its request, and the reply of the request
(`20_memory.md` R48, R51, `41_register_client.md` R124). -/

namespace Sys2Proof.Machine

/-- The bus is answered by the reference peer, now and in every later transaction. -/
def State.ByReference (s : State) : Prop := s.peer.mode = .reference ∧ s.peer.script = []

/-- From `s` to `t` the block has neither moved nor been initialised. -/
def State.StaysPut (s t : State) : Prop :=
  t.initialized = s.initialized ∧ t.position = s.position ∧ t.isMoving = s.isMoving

theorem State.StaysPut.trans {s t u : State} (h : s.StaysPut t) (h' : t.StaysPut u) : s.StaysPut u := by
  obtain ⟨hi, hp, hm⟩ := h
  obtain ⟨hi', hp', hm'⟩ := h'
  exact ⟨hi'.trans hi, hp'.trans hp, hm'.trans hm⟩

section Reference

variable {s : State} {rest : List Input}

/-! ### Steps that take a packet -/

theorem step_takes_wreg {a : Addr} {v : Word} (hq : s.seq = .idle) (hi : s.initialized = true)
    (ha : s.agenda = .packet (encode (.wreg a v)) :: rest) :
    ∃ t, step s = .next t ∧ t.seq = .wrT ∧ t.bus.addr = a ∧ t.bus.wdata = v ∧ t.agenda = rest ∧
      t.peer = s.peer ∧ s.StaysPut t :=
  ⟨_, (step_packet s (.wreg a v) rest ha rfl).trans (exec_wreg a v hq hi), rfl, rfl, rfl, rfl, rfl, rfl, rfl, rfl⟩

theorem step_takes_rreg {a : Addr} (hq : s.seq = .idle) (hi : s.initialized = true)
    (ha : s.agenda = .packet (encode (.rreg a)) :: rest) :
    ∃ t, step s = .next t ∧ t.seq = .rdT1 ∧ t.op = .opRreg ∧ t.bus.addr = a ∧ t.agenda = rest ∧
      t.peer = s.peer ∧ s.StaysPut t :=
  ⟨_, (step_packet s (.rreg a) rest ha rfl).trans (exec_rreg a hq hi), rfl, rfl, rfl, rfl, rfl, rfl, rfl, rfl⟩

/-! ### Steps that send a frame -/

section Frames

variable (hpeer : s.ByReference)
include hpeer

/-- The write frame of a WREG stores its value in the chip, and ends the WREG. -/
theorem act_writes (hq : s.seq = .wrT) :
    ∃ t, act s = .next t ∧ t.seq = .idle ∧ t.agenda = s.agenda ∧
      t.peer = { s.peer with mem := s.peer.mem.writeReg s.bus.addr s.bus.wdata, staged := Config.freeWord s.draws } ∧
      s.StaysPut t := by
  obtain ⟨hmode, hscript⟩ := hpeer
  rw [act_write s hq, State.transact_write_reference _ _ _ hscript hmode, State.afterWrite_ok (by exact hq)]
  exact ⟨_, rfl, rfl, rfl, rfl, rfl, rfl, rfl⟩

/-- The first read frame of a RREG stages the value the chip register then has. -/
theorem act_requests (hq : s.seq = .rdT1) :
    ∃ t, act s = .next t ∧ t.seq = .rdT2 ∧ t.op = s.op ∧ t.agenda = s.agenda ∧
      t.peer = { s.peer with staged := s.peer.mem.readReg s.bus.addr } ∧ s.StaysPut t := by
  obtain ⟨hmode, hscript⟩ := hpeer
  rw [act_read s (.inl hq), State.transact_read_reference _ _ hscript hmode, State.afterRead_first (by exact hq)]
  exact ⟨_, rfl, rfl, rfl, rfl, rfl, rfl, rfl, rfl⟩

/-- The second read frame of a RREG fetches what is staged, and answers it. -/
theorem act_replies (hq : s.seq = .rdT2) (hop : s.op = .opRreg) :
    ∃ t, act s = .next t ∧ t.seq = .idle ∧ t.bus.result = s.peer.staged ∧
      (∃ before, t.out = before ++ [.evResp 0x05 .ok (bytesBe32 s.peer.staged)]) ∧ t.peer.mem = s.peer.mem ∧
      s.StaysPut t := by
  obtain ⟨hmode, hscript⟩ := hpeer
  have hcmd : opcodeOfOp s.op = 0x05 := congrArg opcodeOfOp hop
  rw [act_read s (.inr hq), State.transact_read_reference _ _ hscript hmode, State.afterRead_second (by exact hq),
    State.completeRead, frameOf_payload, ← hcmd]
  exact ⟨_, rfl, rfl, rfl, ⟨_, rfl⟩, rfl, rfl, rfl, rfl⟩

end Frames

end Reference

/-- The bytes of a word as the response of RREG gives them. -/
theorem bytesBe32_eq_ofNat (v : Word) : bytesBe32 v = [BitVec.ofNat 8 (v.toNat / 2 ^ 24),
    BitVec.ofNat 8 (v.toNat / 2 ^ 16), BitVec.ofNat 8 (v.toNat / 2 ^ 8), BitVec.ofNat 8 v.toNat] := by
  simp only [bytesBe32, byteOf_eq_ofNat, Nat.pow_zero, Nat.div_one]
  rfl

/-- Settles O37: the write is stored, the request stages it, the reply fetches it. -/
theorem writtenRegisterReadsBack : Obligations.WrittenRegisterReadsBack := by
  intro s a v hinv hq hi hmode hscript
  obtain ⟨t1, h1, hq1, haddr1, hdata1, ha1, hp1, hput1⟩ := step_takes_wreg (a := a) (v := v)
    (s := { s with agenda := [.packet (encode (.wreg a v)), .act, .packet (encode (.rreg a)), .act, .act] }) hq hi rfl
  have hby1 : t1.ByReference := by rw [State.ByReference, hp1]; exact ⟨hmode, hscript⟩
  obtain ⟨t2, h2, hq2, ha2, hp2, hput2⟩ := act_writes
    (s := { t1 with agenda := [.packet (encode (.rreg a)), .act, .act] }) hby1 hq1
  rw [hp1, haddr1, hdata1] at hp2
  obtain ⟨t3, h3, hq3, hop3, haddr3, ha3, hp3, hput3⟩ :=
    step_takes_rreg hq2 (hput2.1.trans (hput1.1.trans hi)) ha2
  have hby3 : t3.ByReference := by rw [State.ByReference, hp3, hp2]; exact ⟨hmode, hscript⟩
  obtain ⟨t4, h4, hq4, hop4, ha4, hp4, hput4⟩ := act_requests (s := { t3 with agenda := [.act] }) hby3 hq3
  have hby4 : t4.ByReference := by rw [State.ByReference, hp4]; exact hby3
  obtain ⟨u, h5, hqu, hresult, ⟨before, hout⟩, hmem, hput5⟩ := act_replies
    (s := { t4 with agenda := [] }) hby4 hq4 (hop4.trans hop3)
  have hstaged : t4.peer.staged = v := by
    rw [hp4, haddr3, hp3, hp2]
    exact (Memory.readReg_writeReg _ a a v hinv.mem).trans (if_pos rfl)
  have hmem' : u.peer.mem = s.peer.mem.writeReg a v := by rw [hmem, hp4, hp3, hp2]
  obtain ⟨-, hpos, hmoving⟩ := (((hput1.trans hput2).trans hput3).trans hput4).trans hput5
  refine ⟨u, before, ?_, ?_, hresult.trans hstaged, hqu, hpos, hmoving, ?_, fun b hb => ?_⟩
  · rw [run_succ 4 h1, run_succ 3 ((step_act t1 _ ha1).trans h2), run_succ 2 h3,
      run_succ 1 ((step_act t3 _ ha3).trans h4), run_succ 0 ((step_act t4 _ ha4).trans h5), run_zero]
  · rw [hout, hstaged, bytesBe32_eq_ofNat]
  · rw [hmem', Memory.readReg_writeReg _ a a v hinv.mem, if_pos rfl]
  · rw [hmem', Memory.readReg_writeReg _ a b v hinv.mem, if_neg hb]

/-- Settles O38: the request stages the register's value, and a change of the chip leaves what is staged. -/
theorem readReturnsTheValueAtTheRequest : Obligations.ReadReturnsTheValueAtTheRequest := by
  intro s a changed hinv hq hi hmode hscript
  obtain ⟨t1, h1, hq1, hop1, haddr1, ha1, hp1, -⟩ := step_takes_rreg (a := a)
    (s := { s with agenda := [.packet (encode (.rreg a)), .act, .chipSet a changed, .act] }) hq hi rfl
  have hby1 : t1.ByReference := by rw [State.ByReference, hp1]; exact ⟨hmode, hscript⟩
  obtain ⟨t2, h2, hq2, hop2, ha2, hp2, -⟩ := act_requests
    (s := { t1 with agenda := [.chipSet a changed, .act] }) hby1 hq1
  have h3 := step_chipSet t2 a changed [.act] ha2
  have hby2 : t2.ByReference := by rw [State.ByReference, hp2]; exact hby1
  obtain ⟨u, h4, hqu, hresult, -, hmem, -⟩ := act_replies (s := { t2 with agenda := [] }.chipSet a changed)
    hby2 hq2 (hop2.trans hop1)
  refine ⟨u, ?_, ?_, ?_, hqu⟩
  · rw [run_succ 3 h1, run_succ 2 ((step_act t1 _ ha1).trans h2), run_succ 1 h3,
      run_succ 0 ((step_act _ [] rfl).trans h4), run_zero]
  · rw [hresult, State.chipSet_peer, hp2, haddr1, hp1]
  · rw [hmem, State.chipSet_peer, hp2, hp1]
    exact (Memory.readReg_writeReg _ a a changed hinv.mem).trans (if_pos rfl)

end Sys2Proof.Machine
end

section
/-! ## The trapezoid of a run's delays

The values at the ends of each phase, the bounds, the denominators and the sum (`40_ramp_timer.md` R95,
`95_test_vectors.md` V1), from the formula of each phase. -/

namespace Sys2Proof.Machine

namespace Prof

variable {p : Prof}

/-! ### The decrement -/

theorem dec_mul_ramp (hr : 0 < p.ramp) : p.dec * p.ramp = p.d0.toNat - p.dm.toNat :=
  div_mul_cancel₀ _ (Nat.cast_ne_zero.2 hr.ne')

theorem dec_pos (hr : 0 < p.ramp) (h : (p.dm.toNat : Rat) < p.d0.toNat) : 0 < p.dec :=
  div_pos (sub_pos.2 h) (Nat.cast_pos.2 hr)

variable (hwf : p.Wf)
include hwf

theorem dec_nonneg : 0 ≤ p.dec := div_nonneg (sub_nonneg.2 hwf.dm_le_d0) (Nat.cast_nonneg _)

/-! ### The formulas of the two ramps -/

/-- The acceleration without its clamp. -/
theorem delay_accel_eq {i : Nat} (h : i < p.ramp) : p.delay i = p.d0.toNat - p.dec * (i + 1) := by
  rw [delay_accel h, max_eq_left (dm_le_accel hwf h)]

/-- The deceleration, by the index from its start. -/
theorem delay_decel_eq {k : Nat} (hr : 0 < p.ramp) : p.delay (p.total - p.ramp + k) = p.dm.toNat + p.dec * (k + 1) := by
  have hramp := hwf.two_ramp_le
  rw [delay_decel hwf hr (Nat.le_add_right _ _), Nat.cast_add, Nat.cast_sub (by omega)]
  ring

/-- A forward step is in one of the three phases. -/
theorem phases {i : Nat} (h : i < p.total) : i < p.ramp ∨ (p.ramp ≤ i ∧ i < p.total - p.ramp) ∨
    0 < p.ramp ∧ ∃ k, k < p.ramp ∧ i = p.total - p.ramp + k := by
  have hramp := hwf.two_ramp_le
  rcases Nat.lt_or_ge i (p.total - p.ramp) with hi | hi
  · omega
  · exact .inr (.inr ⟨by omega, i - (p.total - p.ramp), by omega, by omega⟩)

/-- Every delay lies between the two of the request. -/
theorem delay_bounds {i : Nat} (h : i < p.total) : (p.dm.toNat : Rat) ≤ p.delay i ∧ p.delay i ≤ p.d0.toNat := by
  have hle := hwf.dm_le_d0
  have hdec := dec_nonneg hwf
  rcases phases hwf h with hi | ⟨hi, hi'⟩ | ⟨hr, k, hk, rfl⟩
  · have hfall : 0 ≤ p.dec * (i + 1) := mul_nonneg hdec (by positivity)
    rw [delay_accel_eq hwf hi]
    exact ⟨dm_le_accel hwf hi, by linarith⟩
  · rw [delay_plateau hi hi']
    exact ⟨le_rfl, hle⟩
  · have hrise : 0 ≤ p.dec * (k + 1) := mul_nonneg hdec (by positivity)
    have hclamp := dm_le_accel hwf hk
    rw [delay_decel_eq hwf hr]
    constructor <;> linarith

/-- Every delay is a whole number of `ramp`-th parts. -/
theorem delay_eq_div {i : Nat} (hr : 0 < p.ramp) (h : i < p.total) : ∃ z : Int, p.delay i = z / (p.ramp : Int) := by
  have hne : (p.ramp : Rat) ≠ 0 := Nat.cast_ne_zero.2 hr.ne'
  rcases phases hwf h with hi | ⟨hi, hi'⟩ | ⟨-, k, hk, rfl⟩
  · refine ⟨p.d0.toNat * p.ramp - (p.d0.toNat - p.dm.toNat) * (i + 1), ?_⟩
    rw [delay_accel_eq hwf hi, dec]
    push_cast
    field_simp
  · refine ⟨p.dm.toNat * p.ramp, ?_⟩
    rw [delay_plateau hi hi']
    push_cast
    field_simp
  · refine ⟨p.dm.toNat * p.ramp + (p.d0.toNat - p.dm.toNat) * (k + 1), ?_⟩
    rw [delay_decel_eq hwf hr, dec]
    push_cast
    field_simp

theorem delay_den_dvd {i : Nat} (hr : 0 < p.ramp) (h : i < p.total) : (p.delay i).den ∣ p.ramp := by
  obtain ⟨z, hz⟩ := delay_eq_div hwf hr h
  rw [hz, ← Rat.divInt_eq_div]
  exact Int.natCast_dvd_natCast.1 (Rat.den_dvd z p.ramp)

/-! ### The ends of the ramps -/

theorem delay_accel_last (hr : 0 < p.ramp) : p.delay (p.ramp - 1) = p.dm.toNat := by
  rw [delay_accel_eq hwf (by omega), Nat.cast_sub (by omega)]
  push_cast
  rw [sub_add_cancel, dec_mul_ramp hr]
  ring

theorem delay_decel_last (hr : 0 < p.ramp) : p.delay (p.total - 1) = p.d0.toNat := by
  have hramp := hwf.two_ramp_le
  have hlast : p.total - 1 = p.total - p.ramp + (p.ramp - 1) := by omega
  rw [hlast, delay_decel_eq hwf hr, Nat.cast_sub (by omega)]
  push_cast
  rw [sub_add_cancel, dec_mul_ramp hr]
  ring

/-- The delays of the two ramps mirror each other: step by step they add to the same sum. -/
theorem delay_accel_add_decel {k : Nat} (h : k < p.ramp) :
    p.delay k + p.delay (p.total - p.ramp + k) = p.d0.toNat + p.dm.toNat := by
  rw [delay_accel_eq hwf h, delay_decel_eq hwf (by omega)]
  ring

end Prof

/-- Settles O23, from the formula of each phase. -/
theorem delayProfileIsATrapezoid : Obligations.DelayProfileIsATrapezoid := by
  intro p hwf d0 dm step
  have hramp := hwf.two_ramp_le
  have hstep : step = p.dec := rfl
  refine ⟨by omega, by rw [hwf.ramp]; omega,
    fun hr => ⟨Prof.delay_accel_last hwf hr, Prof.delay_decel_last hwf hr, ?_, ?_⟩,
    fun i => Prof.delay_plateau, fun i => Prof.dm_le_accel hwf, fun i => Prof.delay_bounds hwf, fun hlt => ⟨?_, ?_⟩,
    fun heq i hi => ?_, fun hr i => Prof.delay_den_dvd hwf hr⟩
  · rw [Prof.delay_accel_eq hwf hr, hstep]
    simp [d0]
  · have hfirst := Prof.delay_decel_eq hwf (k := 0) hr
    simpa [hstep, dm] using hfirst
  · intro i hi
    have hdec := Prof.dec_pos (by omega) hlt
    rw [Prof.delay_accel_eq hwf hi, Prof.delay_accel_eq hwf (by omega)]
    push_cast
    linarith
  · intro i hi hi'
    obtain ⟨k, rfl⟩ := Nat.exists_eq_add_of_le hi
    have hr : 0 < p.ramp := by omega
    have hdec := Prof.dec_pos hr hlt
    rw [Nat.add_assoc, Prof.delay_decel_eq hwf hr, Prof.delay_decel_eq hwf hr]
    push_cast
    linarith
  · obtain ⟨hlow, hhigh⟩ := Prof.delay_bounds hwf hi
    exact le_antisymm (heq ▸ hhigh) hlow

/-- Settles O24: the steps of the two ramps are added in pairs, and the plateau is the rest. -/
theorem delaysOfARunSumUp : Obligations.DelaysOfARunSumUp := by
  intro p hwf hr
  have hramp := hwf.two_ramp_le
  have hsplit : p.total = p.ramp + (p.total - 2 * p.ramp) + p.ramp := by omega
  have hplateau : ∑ k ∈ Finset.range (p.total - 2 * p.ramp), p.delay (p.ramp + k) =
      (p.total - 2 * p.ramp : Nat) * (p.dm.toNat : Rat) := by
    rw [Finset.sum_congr rfl fun k hk => Prof.delay_plateau (Nat.le_add_right _ k) ?_, Finset.sum_const,
      Finset.card_range, nsmul_eq_mul]
    have := Finset.mem_range.1 hk
    omega
  have hpairs : ∑ k ∈ Finset.range p.ramp, (p.delay k + p.delay (p.total - p.ramp + k)) =
      p.ramp * ((p.d0.toNat : Rat) + p.dm.toNat) := by
    rw [Finset.sum_congr rfl fun k hk => Prof.delay_accel_add_decel hwf (Finset.mem_range.1 hk), Finset.sum_const,
      Finset.card_range, nsmul_eq_mul]
  have hstart : p.ramp + (p.total - 2 * p.ramp) = p.total - p.ramp := by omega
  calc
    ((List.range p.total).map p.delay).sum = ∑ k ∈ Finset.range p.total, p.delay k := rfl
    _ = ∑ k ∈ Finset.range p.ramp, p.delay k + ∑ k ∈ Finset.range (p.total - 2 * p.ramp), p.delay (p.ramp + k) +
        ∑ k ∈ Finset.range p.ramp, p.delay (p.total - p.ramp + k) := by
      rw [← hstart, ← Finset.sum_range_add, ← Finset.sum_range_add, ← hsplit]
    _ = _ := by
      rw [add_right_comm, ← Finset.sum_add_distrib, hpairs, hplateau]

end Sys2Proof.Machine
end

section
/-! ## Every operation ends

An action off `Idle` leaves fewer actions to take, so an undisturbed operation ends; a HOME ends with its position
zeroed or with its position as it was (`40_ramp_timer.md` R102, `42_homing.md` R149). -/

namespace Sys2Proof.Machine

namespace State

/-- What an action off `Idle` does beside `State.Acts`: it leaves the inputs to come as they were and fewer actions to
take, and a HOME that it ends well is zeroed. -/
structure Advances (s t : State) : Prop where
  agenda  : t.agenda = s.agenda
  shorter : t.actionsLeft < s.actionsLeft
  zeroes  : s.op = .opHome → t.lastCode = .ok → t.op = .opHome ∨ t.hstate = .hZeroed ∧ t.position = 0

variable {s : State}

/-! ### The count of actions left, by boundary -/

theorem actionsLeft_idle (hq : s.seq = .idle) : s.actionsLeft = 0 := by simp only [actionsLeft, hq]

theorem actionsLeft_fwd {i : Nat} (hq : s.seq = .fwd i) : s.actionsLeft = (s.prof.total - i) + s.prof.ovs.toNat := by
  simp only [actionsLeft, hq]

theorem actionsLeft_rev {j : Nat} (hq : s.seq = .rev j) : s.actionsLeft = s.prof.ovs.toNat - j := by
  simp only [actionsLeft, hq]

/-- The actions that the seek steps still allowed, and the back-off after them, can take. -/
def seekLeft (s : State) : Nat := 3 * (s.cfg.homebudget.toNat - s.hom.s.toNat) + s.cfg.homeoffset.toNat + 1

theorem actionsLeft_seekStep (hq : s.seq = .seekStep) : s.actionsLeft = s.seekLeft := by
  simp only [actionsLeft, hq, seekLeft]

theorem actionsLeft_seekT1 (hq : s.seq = .seekT1) : s.actionsLeft = s.seekLeft + 2 := by
  simp only [actionsLeft, hq, seekLeft]

theorem actionsLeft_seekT2 (hq : s.seq = .seekT2) : s.actionsLeft = s.seekLeft + 1 := by
  simp only [actionsLeft, hq, seekLeft]

theorem actionsLeft_rdT1 (hq : s.seq = .rdT1) : s.actionsLeft = 2 := by simp only [actionsLeft, hq]

theorem actionsLeft_transact (tx : Bytes5) (s : State) : (s.transact tx).2.actionsLeft = s.actionsLeft := by
  rw [transact_frame]
  rfl

/-- At a boundary of an operation some action is left. -/
theorem Inv.actionsLeft_pos (h : s.Inv) (hq : s.seq ≠ .idle) : 0 < s.actionsLeft := by
  have hrun := h.run
  cases hseq : s.seq <;> rw [hseq] at hrun <;> simp only [actionsLeft, hseq]
  case idle => exact absurd hseq hq
  case fwd i =>
    obtain ⟨-, hi, -⟩ := hrun
    omega
  case rev j =>
    obtain ⟨-, hj, -⟩ := hrun
    omega
  all_goals omega

/-! ### Actions that end the operation -/

section Ends

variable {t : State} (h : s.Inv) (hq : s.seq ≠ .idle) (agenda : t.agenda = s.agenda) (seq : t.seq = .idle)
include h hq agenda seq

theorem Advances.ended (zeroes : s.op = .opHome → t.lastCode = .ok → t.hstate = .hZeroed ∧ t.position = 0) :
    s.Advances t :=
  ⟨agenda, actionsLeft_idle seq ▸ h.actionsLeft_pos hq, fun hop hcode => .inr (zeroes hop hcode)⟩

theorem Advances.failed (hcode : t.lastCode ≠ .ok) : s.Advances t :=
  .ended h hq agenda seq fun _ hok => absurd hok hcode

theorem Advances.ended_off_home (hop : s.op ≠ .opHome) : s.Advances t :=
  .ended h hq agenda seq fun hhome => absurd hhome hop

end Ends

/-- An action by which the operation goes on. -/
theorem Advances.goesOn {t : State} (agenda : t.agenda = s.agenda) (op : t.op = s.op)
    (shorter : t.actionsLeft < s.actionsLeft) : s.Advances t :=
  ⟨agenda, shorter, fun hop _ => .inl (op.trans hop)⟩

/-! ### The actions, by boundary -/

section Actions

variable (h : s.Inv)
include h

theorem cancelRun_advances (hown : s.OwnsRun) (hq : s.seq ≠ .idle) : s.Advances s.cancelRun := by
  rcases hown with ⟨-, hctx⟩ | ⟨-, hctx⟩
  · rw [cancelRun_move s hctx]
    exact .failed h hq rfl rfl nofun
  · rw [cancelRun_home s hctx]
    exact .failed h hq rfl rfl nofun

theorem finish_counted_advances (hown : s.OwnsRun) (hq : s.seq ≠ .idle) (d : Rat) (dir : Int) :
    s.Advances ((s.pulse d).countStep dir).finish := by
  rcases hown with ⟨hop, hctx⟩ | ⟨-, hctx⟩
  · rw [finish_move _ (by exact hctx)]
    exact .ended_off_home h hq rfl rfl (by simp [hop])
  · rw [finish_home _ (by exact hctx)]
    exact .ended h hq rfl rfl fun _ _ => ⟨rfl, rfl⟩

theorem fwdStep_advances {i : Nat} (hq : s.seq = .fwd i) : s.Advances (s.fwdStep i) := by
  have hown : s.OwnsRun := h.fits hq
  have hne : s.seq ≠ .idle := by simp [hq]
  obtain ⟨-, hi, -⟩ : RunInv s.prof s.lines.dirSign (.fwd i) := hq ▸ h.run
  by_cases hc : s.cancelReq = true
  · rw [fwdStep_cancelled i s hc]
    exact cancelRun_advances h hown hne
  rw [Bool.not_eq_true] at hc
  by_cases hmore : i + 1 < s.prof.total
  · rw [fwdStep_more i s hc hmore]
    refine .goesOn rfl rfl ?_
    rw [actionsLeft_fwd hq, actionsLeft_fwd rfl]
    change s.prof.total - (i + 1) + s.prof.ovs.toNat < _
    omega
  by_cases hovs : 0 < s.prof.ovs.toNat
  · rw [fwdStep_turns i s hc (by omega) hovs]
    refine .goesOn rfl rfl ?_
    rw [actionsLeft_fwd hq, actionsLeft_rev rfl]
    change s.prof.ovs.toNat - 0 < _
    omega
  · rw [fwdStep_last i s hc (by omega) (by omega)]
    exact finish_counted_advances h hown hne _ _

theorem revStep_advances {j : Nat} (hq : s.seq = .rev j) : s.Advances (s.revStep j) := by
  have hown : s.OwnsRun := .inl (h.fits hq)
  have hne : s.seq ≠ .idle := by simp [hq]
  obtain ⟨-, hj, -⟩ : RunInv s.prof s.lines.dirSign (.rev j) := hq ▸ h.run
  by_cases hc : s.cancelReq = true
  · rw [revStep_cancelled j s hc]
    exact cancelRun_advances h hown hne
  rw [Bool.not_eq_true] at hc
  by_cases hmore : j + 1 < s.prof.ovs.toNat
  · rw [revStep_more j s hc hmore]
    refine .goesOn rfl rfl ?_
    rw [actionsLeft_rev hq, actionsLeft_rev rfl]
    change s.prof.ovs.toNat - (j + 1) < _
    omega
  · rw [revStep_last j s hc (by omega)]
    exact finish_counted_advances h hown hne _ _

theorem seekStep_advances (hq : s.seq = .seekStep) : s.Advances s.seekStep := by
  have hne : s.seq ≠ .idle := by simp [hq]
  by_cases hc : s.cancelReq = true
  · rw [seekStep_cancelled s hc]
    exact .failed h hne rfl rfl nofun
  rw [Bool.not_eq_true] at hc
  by_cases hb : s.hom.s.toNat < s.cfg.homebudget.toNat
  · rw [seekStep_pulses s hc hb]
    refine .goesOn rfl rfl ?_
    rw [actionsLeft_seekStep hq, actionsLeft_seekT1 rfl]
    have hs := toNat_add_one_of_lt hb
    simp only [seekLeft, pulse_cfg, hs]
    omega
  · rw [seekStep_exhausted s hc (by omega)]
    exact .failed h hne rfl rfl nofun

theorem takeStatus_advances (hq : s.seq = .seekT2) (w : Word) : s.Advances (s.takeStatus w) := by
  have hne : s.seq ≠ .idle := by simp [hq]
  have hop : s.op = .opHome := h.fits hq
  by_cases hcount : (s.debounced w).toNat < s.cfg.homen.toNat
  · rw [takeStatus_continues w s hcount]
    refine .goesOn rfl rfl ?_
    rw [actionsLeft_seekT2 hq, actionsLeft_seekStep rfl]
    exact Nat.lt_succ_self _
  by_cases hoffset : s.cfg.homeoffset.toNat = 0
  · rw [takeStatus_confirms w s (by omega), confirm_at_once ?_ ?_]
    · exact .ended h hne rfl rfl fun _ _ => ⟨rfl, rfl⟩
    · exact hop
    · exact hoffset
  · rw [takeStatus_confirms w s (by omega), confirm_backs_off ?_]
    · refine .goesOn rfl rfl ?_
      rw [actionsLeft_seekT2 hq, actionsLeft_fwd rfl]
      change s.cfg.homeoffset.toNat + 0 - 0 + 0 < s.seekLeft + 1
      rw [seekLeft]
      omega
    · exact Nat.pos_of_ne_zero hoffset

theorem afterWrite_advances (hq : s.seq = .wrT) (o : TxnOutcome) : s.Advances (s.afterWrite o) := by
  have hne : s.seq ≠ .idle := by simp [hq]
  have hop : s.op = .opWreg := h.fits hq
  cases o with
  | ok rx =>
    rw [afterWrite_ok hq]
    exact .ended_off_home h hne rfl rfl (by simp [hop])
  | fail =>
    rw [afterWrite_fail hq]
    exact .failed h hne rfl rfl nofun

/-- At a boundary that sends a read frame. -/
theorem afterRead_advances (hq : s.seq = .rdT1 ∨ s.seq = .rdT2 ∨ s.seq = .seekT1 ∨ s.seq = .seekT2) (o : TxnOutcome) :
    s.Advances (s.afterRead o) := by
  have hne : s.seq ≠ .idle := fun hidle => by simp [hidle] at hq
  rcases hq with hq | hq | hq | hq
  · cases o with
    | ok rx =>
      rw [afterRead_first hq]
      exact .goesOn rfl rfl (by rw [actionsLeft_rdT1 hq]; exact Nat.lt_succ_self _)
    | fail =>
      rw [afterRead_fail (.inl hq)]
      exact .failed h hne rfl rfl nofun
  · cases o with
    | ok rx =>
      have hop : s.op = .opRreg := h.fits hq
      rw [afterRead_second hq]
      exact .ended_off_home h hne rfl rfl (by simp [hop])
    | fail =>
      rw [afterRead_fail (.inr hq)]
      exact .failed h hne rfl rfl nofun
  · cases o with
    | ok rx =>
      rw [afterRead_status_first hq]
      exact .goesOn rfl rfl (by rw [actionsLeft_seekT1 hq]; exact Nat.lt_succ_self _)
    | fail =>
      rw [afterRead_status_fail (.inl hq)]
      exact .failed h hne rfl rfl nofun
  · cases o with
    | ok rx =>
      rw [afterRead_status_second hq]
      exact takeStatus_advances h hq _
    | fail =>
      rw [afterRead_status_fail (.inr hq)]
      exact .failed h hne rfl rfl nofun

end Actions

/-- A transaction leaves as many actions to take as before. -/
theorem Advances.after_transact {t : State} {tx : Bytes5} (h : (s.transact tx).2.Advances t) : s.Advances t where
  agenda := h.agenda.trans (by rw [transact_frame])
  shorter := actionsLeft_transact tx s ▸ h.shorter
  zeroes := transact_op tx s ▸ h.zeroes

end State

theorem act_advances {s t : State} (hinv : s.Inv) (hq : s.seq ≠ .idle) (h : act s = .next t) : s.Advances t := by
  have hsent (tx : Bytes5) := hinv.transact tx
  have hkept (tx : Bytes5) := State.transact_seq tx s
  cases hseq : s.seq
  case idle => exact absurd hseq hq
  case fwd i => rw [act_fwd s i hseq] at h; cases h; exact State.fwdStep_advances hinv hseq
  case rev j => rw [act_rev s j hseq] at h; cases h; exact State.revStep_advances hinv hseq
  case seekStep => rw [act_seekStep s hseq] at h; cases h; exact State.seekStep_advances hinv hseq
  case wrT =>
    rw [act_write s hseq] at h
    cases h
    exact (State.afterWrite_advances (hsent _) ((hkept _).trans hseq) _).after_transact
  case rdT1 | rdT2 =>
    rw [act_read s (by simp [hseq])] at h
    cases h
    exact (State.afterRead_advances (hsent _) (by simp [hkept, hseq]) _).after_transact
  case seekT1 | seekT2 =>
    rw [act_status s (by simp [hseq])] at h
    cases h
    exact (State.afterRead_advances (hsent _) (by simp [hkept, hseq]) _).after_transact

/-! ### The ends of a HOME -/

/-- How a HOME that was in progress in `s` has ended in `u` (`42_homing.md` R149). -/
def State.HomeEnded (s u : State) : Prop :=
  u.hstate = .hZeroed ∧ u.position = 0 ∧ u.lastCode = .ok ∨
    u.hstate = .hIdle ∧ u.position = s.position ∧ u.lastCode ≠ .ok

theorem State.MayFail.ne_ok {s : State} {code : Code} (h : s.MayFail code) : code ≠ .ok := by
  rintro rfl
  exact h

/-- An action of a HOME goes on from the same position, or ends the HOME. -/
theorem act_home {s t : State} (hinv : s.Inv) (hop : s.op = .opHome) (h : act s = .next t) :
    (t.op = .opHome ∧ t.position = s.position) ∨ (t.op = .opNone ∧ s.HomeEnded t) := by
  have hq : s.seq ≠ .idle := fun hidle => absurd (hop.symm.trans (hinv.idle_iff.1 hidle)) nofun
  cases act_acts hinv h with
  | goesOn hg =>
    refine .inl ⟨hg.op.trans hop, by_contra fun hp => ?_⟩
    exact absurd (hop.symm.trans (hg.position hp)) nofun
  | succeeds he =>
    refine .inr ⟨he.op, .inl ?_⟩
    rcases (act_advances hinv hq h).zeroes hop he.lastCode with hgoes | ⟨hzero, hpos⟩
    · exact absurd (he.op.symm.trans hgoes) nofun
    · exact ⟨hzero, hpos, he.lastCode⟩
  | fails code hf =>
    refine .inr ⟨hf.op, .inr ⟨hf.hstate.trans (if_pos hop), by_contra fun hp => ?_, ?_⟩⟩
    · exact absurd (hop.symm.trans (hf.place hp).1) nofun
    · exact hf.lastCode.symm ▸ hf.cause.ne_ok

/-! ### Running until idle -/

/-- An undisturbed block runs to `Idle`, and a HOME in progress to one of its ends. -/
theorem run_until_idle {s : State} (hinv : s.Inv) (ha : s.agenda = []) :
    ∃ (k : Nat) (u : State), k ≤ s.actionsLeft ∧ Host.Core.run Sys2Proof.core k s = .next u ∧ u.Inv ∧ u.seq = .idle ∧
      (s.seq = .idle → u = s) ∧ (s.op = .opHome → s.HomeEnded u) := by
  induction hn : s.actionsLeft using Nat.strong_induction_on generalizing s with
  | _ n ih =>
    by_cases hq : s.seq = .idle
    · exact ⟨0, s, Nat.zero_le _, run_zero s, hinv, hq, fun _ => rfl,
        fun hop => absurd (hop.symm.trans (hinv.idle_iff.1 hq)) nofun⟩
    obtain ⟨t, ht⟩ := act_next s
    have hadv := act_advances hinv hq ht
    have hshorter := hadv.shorter
    obtain ⟨k, u, hk, hrun, huinv, huq, hsame, hhome⟩ :=
      ih _ (hn ▸ hshorter) (act_inv hinv ht) (hadv.agenda.trans ha) rfl
    refine ⟨k + 1, u, by omega, ?_, huinv, huq, fun hidle => absurd hidle hq, fun hop => ?_⟩
    · rw [run_succ k ((step_nil s ha).trans ht), hrun]
    · rcases act_home hinv hop ht with ⟨htop, htpos⟩ | ⟨htop, hended⟩
      · have hend := hhome htop
        rwa [State.HomeEnded, htpos] at hend
      · rwa [hsame ((act_inv hinv ht).idle_iff.2 htop)]

/-- Settles O48: each action leaves fewer to take. -/
theorem everyOperationEnds : Obligations.EveryOperationEnds := by
  intro s hinv ha
  obtain ⟨k, u, hk, hrun, huinv, huq, -, -⟩ := run_until_idle hinv ha
  obtain ⟨hop, hmoving, -⟩ := huinv.at_rest huq
  exact ⟨k, u, hk, hrun, huq, hop, hmoving⟩

/-- The actions a HOME has left, in terms of its configuration alone. -/
theorem State.Inv.actionsLeft_home {s : State} (h : s.Inv) (hop : s.op = .opHome) :
    s.actionsLeft ≤ 3 * s.cfg.homebudget.toNat + s.cfg.homeoffset.toNat + 3 := by
  have hfits := h.seqFits
  cases hq : s.seq <;> rw [hq, hop] at hfits
  case idle | wrT | rdT1 | rdT2 => cases hfits
  case rev j => cases hfits.1
  case fwd i =>
    obtain ⟨hwf, -⟩ : RunInv s.prof s.lines.dirSign (.fwd i) := hq ▸ h.run
    obtain ⟨-, -, hn, hovs, -⟩ := h.backOff hq hop
    have htotal := hwf.total
    have hzero : s.prof.ovs.toNat = 0 := by rw [hovs]; rfl
    rw [State.actionsLeft_fwd hq]
    omega
  case seekStep => rw [State.actionsLeft_seekStep hq, State.seekLeft]; omega
  case seekT1 => rw [State.actionsLeft_seekT1 hq, State.seekLeft]; omega
  case seekT2 => rw [State.actionsLeft_seekT2 hq, State.seekLeft]; omega

/-- Settles O44: the actions a HOME has left bound its run, which ends it in one of its two ways. -/
theorem homingAlwaysEnds : Obligations.HomingAlwaysEnds := by
  intro s hinv hop ha
  obtain ⟨k, u, hk, hrun, huinv, huq, -, hended⟩ := run_until_idle hinv ha
  obtain ⟨huop, hmoving, -⟩ := huinv.at_rest huq
  exact ⟨k, u, hk.trans (hinv.actionsLeft_home hop), hrun, huq, huop, hmoving, hended hop⟩

end Sys2Proof.Machine
end

section
/-! ## A MOVE from its acceptance to its target

The forward steps, the turn, the reverse steps and the last step of an undisturbed MOVE, each as the state it leaves;
together they are the run of the MOVE (`40_ramp_timer.md` R97 to R99, R102). -/

namespace Sys2Proof.Machine

namespace State

/-- A MOVE in progress that nothing disturbs. -/
structure MovesAlone (s : State) : Prop where
  agenda    : s.agenda = []
  cancelReq : s.cancelReq = false
  stepLow   : s.lines.stepLine = false
  op        : s.op = .opMove
  ctx       : s.prof.ctx = .ctxMove

/-- `s` further on in its run: after some more steps, at another place and boundary, with more events sent. -/
def reached (s : State) (net : Int) (place : Word) (q : Seq) (new : List Event) : State :=
  { s with prof := { s.prof with net := net }, position := place, seq := q, out := s.out ++ new }

/-- `s` with its MOVE at an end: whatever the count of steps and the direction are by then. -/
def arrived (s : State) (net : Int) (dir : Sign) (new : List Event) : State :=
  { s with
    prof := { s.prof with net := net }, position := s.req.target, lines := { s.lines with dirSign := dir },
    isMoving := false, op := .opNone, seq := .idle, lastCode := .ok, out := s.out ++ new }

/-- `s` with DIR set to the way back. -/
def turned (s : State) : State := { s with lines := { s.lines with dirSign := signFlip s.prof.sign } }

theorem reached_reached (s : State) (net net' : Int) (p p' : Word) (q q' : Seq) (new more : List Event) :
    (s.reached net p q new).reached net' p' q' more = s.reached net' p' q' (new ++ more) := by
  simp only [reached, List.append_assoc]

theorem reached_arrived (s : State) (net net' : Int) (p : Word) (q : Seq) (dir : Sign) (new more : List Event) :
    (s.reached net p q new).arrived net' dir more = s.arrived net' dir (new ++ more) := by
  simp only [reached, arrived, List.append_assoc]

theorem turned_arrived (s : State) (net : Int) (dir : Sign) (new : List Event) :
    s.turned.arrived net dir new = s.arrived net dir new := rfl

namespace MovesAlone

variable {s : State} (h : s.MovesAlone)
include h

theorem reached (net : Int) (p : Word) (q : Seq) (new : List Event) : (s.reached net p q new).MovesAlone :=
  ⟨h.agenda, h.cancelReq, h.stepLow, h.op, h.ctx⟩

theorem turned : s.turned.MovesAlone := ⟨h.agenda, h.cancelReq, h.stepLow, h.op, h.ctx⟩

theorem lines_eq : { s.lines with stepLine := false } = s.lines := by rw [← h.stepLow]

/-! ### One step -/

theorem step_forward {i : Nat} (hq : s.seq = .fwd i) (hi : i + 1 < s.prof.total) :
    ∃ p, step s = .next (s.reached (s.prof.net + 1) p (.fwd (i + 1)) [.evStep (s.prof.delay i)]) := by
  rw [step_nil s h.agenda, act_fwd s i hq, fwdStep_more i s h.cancelReq hi, pulse_countStep, h.lines_eq]
  exact ⟨_, rfl⟩

theorem step_back {j : Nat} (hq : s.seq = .rev j) (hj : j + 1 < s.prof.ovs.toNat) :
    ∃ p, step s = .next (s.reached (s.prof.net + -1) p (.rev (j + 1)) [.evStep s.prof.dm.toNat]) := by
  rw [step_nil s h.agenda, act_rev s j hq, revStep_more j s h.cancelReq hj, pulse_countStep, h.lines_eq]
  exact ⟨_, rfl⟩

/-- The last forward step of a MOVE with an overshoot turns. -/
theorem step_turns {i : Nat} (hq : s.seq = .fwd i) (hi : s.prof.total ≤ i + 1) (ho : 0 < s.prof.ovs.toNat) :
    ∃ p, step s = .next (s.turned.reached (s.prof.net + 1) p (.rev 0)
      [.evStep (s.prof.delay i), .evDir (signFlip s.prof.sign), .evPause s.cfg.revpause.toNat]) := by
  rw [step_nil s h.agenda, act_fwd s i hq, fwdStep_turns i s h.cancelReq hi ho, pulse_countStep, h.lines_eq]
  refine ⟨(s.countStep 1).position, ?_⟩
  simp only [State.reverse, driveDir, emit, List.append_assoc]
  rfl

theorem finish_arrives (d : Rat) (dir : Int) : ((s.pulse d).countStep dir).finish =
    s.arrived (s.prof.net + dir) s.lines.dirSign [.evStep d, .evResp 0x02 .ok []] := by
  rw [finish_counted_move d dir h.cancelReq h.ctx h.op, h.lines_eq]
  rfl

/-- The last step of a MOVE without overshoot is its last forward step. -/
theorem step_arrives_forward {i : Nat} (hq : s.seq = .fwd i) (hi : s.prof.total ≤ i + 1) (ho : s.prof.ovs.toNat = 0) :
    step s = .next (s.arrived (s.prof.net + 1) s.lines.dirSign
      [.evStep (s.prof.delay i), .evResp 0x02 .ok []]) := by
  rw [step_nil s h.agenda, act_fwd s i hq, fwdStep_last i s h.cancelReq hi ho, h.finish_arrives]

/-- The last step of a MOVE with an overshoot is its last reverse step. -/
theorem step_arrives_back {j : Nat} (hq : s.seq = .rev j) (hj : s.prof.ovs.toNat ≤ j + 1) :
    step s = .next (s.arrived (s.prof.net + -1) s.lines.dirSign
      [.evStep s.prof.dm.toNat, .evResp 0x02 .ok []]) := by
  rw [step_nil s h.agenda, act_rev s j hq, revStep_last j s h.cancelReq hj, h.finish_arrives]

/-! ### The steps of a phase -/

/-- The pulses of the first `k` forward steps. -/
theorem run_forward (hq : s.seq = .fwd 0) {k : Nat} (hk : k < s.prof.total) :
    ∃ net p, Host.Core.run Sys2Proof.core k s =
      .next (s.reached net p (.fwd k) ((List.range k).map fun i => .evStep (s.prof.delay i))) := by
  induction k with
  | zero =>
    refine ⟨s.prof.net, s.position, (run_zero s).trans (congrArg _ ?_)⟩
    simp [State.reached, ← hq]
  | succ k ih =>
    obtain ⟨net, p, hrun⟩ := ih (by omega)
    obtain ⟨p', hstep⟩ := (h.reached net p (.fwd k) ((List.range k).map fun i => .evStep (s.prof.delay i))).step_forward
      rfl hk
    refine ⟨net + 1, p', ?_⟩
    rw [run_add k 1 hrun, run_succ 0 hstep, run_zero, reached_reached, List.range_succ, List.map_append]
    rfl

/-- The pulses of the first `k` reverse steps. -/
theorem run_back (hq : s.seq = .rev 0) {k : Nat} (hk : k < s.prof.ovs.toNat) :
    ∃ net p, Host.Core.run Sys2Proof.core k s =
      .next (s.reached net p (.rev k) (List.replicate k (.evStep s.prof.dm.toNat))) := by
  induction k with
  | zero =>
    refine ⟨s.prof.net, s.position, (run_zero s).trans (congrArg _ ?_)⟩
    simp [State.reached, ← hq]
  | succ k ih =>
    obtain ⟨net, p, hrun⟩ := ih (by omega)
    obtain ⟨p', hstep⟩ := (h.reached net p (.rev k) (List.replicate k (.evStep s.prof.dm.toNat))).step_back rfl hk
    refine ⟨net + -1, p', ?_⟩
    rw [run_add k 1 hrun, run_succ 0 hstep, run_zero, reached_reached, List.replicate_succ']
    rfl

/-- The reverse steps of a MOVE, to its target. -/
theorem run_back_to_target (hq : s.seq = .rev 0) (ho : 0 < s.prof.ovs.toNat) :
    ∃ net, Host.Core.run Sys2Proof.core s.prof.ovs.toNat s = .next (s.arrived net s.lines.dirSign
      (List.replicate s.prof.ovs.toNat (.evStep s.prof.dm.toNat) ++ [.evResp 0x02 .ok []])) := by
  obtain ⟨k, hk⟩ : ∃ k, s.prof.ovs.toNat = k + 1 := ⟨s.prof.ovs.toNat - 1, by omega⟩
  obtain ⟨net, p, hrun⟩ := h.run_back hq (k := k) (by omega)
  have hlast := (h.reached net p (.rev k) (List.replicate k (.evStep s.prof.dm.toNat))).step_arrives_back rfl hk.le
  refine ⟨net + -1, ?_⟩
  rw [hk, run_add k 1 hrun, run_succ 0 hlast, run_zero, reached_arrived, List.replicate_succ', List.append_assoc]
  rfl

end MovesAlone

/-- What a MOVE does after its forward steps, if it has an overshoot to take back. -/
def overshootEvents (s : State) : List Event :=
  if s.prof.ovs.toNat = 0 then []
  else [.evDir (signFlip s.prof.sign), .evPause s.cfg.revpause.toNat] ++
    List.replicate s.prof.ovs.toNat (.evStep s.prof.dm.toNat)

/-- A MOVE that nothing disturbs, from its start to its target. -/
theorem MovesAlone.run_to_target {s : State} (h : s.MovesAlone) (hq : s.seq = .fwd 0) (ht : 0 < s.prof.total) :
    ∃ net dir, Host.Core.run Sys2Proof.core (s.prof.total + s.prof.ovs.toNat) s = .next (s.arrived net dir
      ((List.range s.prof.total).map (fun i => .evStep (s.prof.delay i)) ++ s.overshootEvents ++
        [.evResp 0x02 .ok []])) := by
  obtain ⟨k, hk⟩ : ∃ k, s.prof.total = k + 1 := ⟨s.prof.total - 1, by omega⟩
  obtain ⟨net, p, hrun⟩ := h.run_forward hq (k := k) (by omega)
  have halone := h.reached net p (.fwd k) ((List.range k).map fun i => .evStep (s.prof.delay i))
  rw [hk, List.range_succ, List.map_append, overshootEvents]
  by_cases ho : s.prof.ovs.toNat = 0
  · have hlast := halone.step_arrives_forward rfl hk.le ho
    refine ⟨net + 1, s.lines.dirSign, ?_⟩
    rw [ho, Nat.add_zero, run_add k 1 hrun, run_succ 0 hlast, run_zero, reached_arrived, if_pos rfl, List.append_nil,
      List.append_assoc]
    rfl
  · obtain ⟨p', hturn⟩ := halone.step_turns rfl hk.le (Nat.pos_of_ne_zero ho)
    obtain ⟨net', hback⟩ := (halone.turned.reached (net + 1) p' (.rev 0) [.evStep (s.prof.delay k),
      .evDir (signFlip s.prof.sign), .evPause s.cfg.revpause.toNat]).run_back_to_target rfl (Nat.pos_of_ne_zero ho)
    refine ⟨net', signFlip s.prof.sign, ?_⟩
    rw [Nat.add_assoc, run_add k _ hrun, Nat.add_comm 1, run_succ _ hturn, if_neg ho]
    refine hback.trans (congrArg _ ?_)
    rw [reached_arrived, turned_arrived, reached_arrived]
    simp only [List.append_assoc]
    rfl

end State

/-! ### From the packet to the target -/

theorem signFlip_signOfInt_sub {a b : Int} (h : b ≠ a) :
    signFlip (signOfInt (b - a)) = if a < b then .minus else .plus := by
  by_cases hlt : a < b
  · rw [signOfInt_of_pos (by omega), if_pos hlt]
    rfl
  · rw [signOfInt_of_neg (by omega), if_neg hlt]
    rfl

theorem signOfInt_sub (a b : Int) : signOfInt (b - a) = if a < b then .plus else .minus := by
  rw [signOfInt]
  congr 1
  exact propext sub_pos

/-- A MOVE that has started from a state at rest is disturbed by nothing but the inputs to come. -/
theorem State.Inv.moveStarted_alone {s : State} (h : s.Inv) (hq : s.seq = .idle) (ha : s.agenda = [])
    (t d0 dm ovs : Word) (g : Sign) (n : Nat) : (s.moveStarted t d0 dm ovs g n).MovesAlone := by
  obtain ⟨-, -, hcancel, -⟩ := h.at_rest hq
  exact ⟨ha, hcancel, h.stepLow, rfl, rfl⟩

/-- Settles O30: the MOVE is accepted, and runs alone from its start to its target. -/
theorem moveRunsToTheTarget : Obligations.MoveRunsToTheTarget := by
  intro s target d0 dm ovs hinv hq hi ha hdm hd0 hne sg back n hlow hhigh
  have hne' : target.toInt ≠ s.position.toInt := fun h => hne (BitVec.toInt_inj.1 h)
  have hsg : signOfInt (target.toInt - s.position.toInt) = sg := signOfInt_sub _ _
  have hback : signFlip sg = back := hsg ▸ signFlip_signOfInt_sub hne'
  have hinside : -2 ^ 31 ≤ target.toInt + signToInt sg * ovs.toNat ∧
      target.toInt + signToInt sg * ovs.toNat ≤ 2 ^ 31 - 1 := by
    have hmin := target.le_toInt
    have hmax := target.toInt_lt
    revert hlow hhigh
    cases sg <;> simp only [signToInt, reduceCtorEq, if_true, if_false] <;> omega
  have hn : 1 ≤ n := by omega
  obtain ⟨net, dir, hrun⟩ := (hinv.moveStarted_alone hq ha target d0 dm ovs sg n).run_to_target rfl
    (Nat.add_pos_left hn _)
  have hcount : n + 2 * ovs.toNat = n + ovs.toNat + ovs.toNat := by omega
  obtain ⟨-, -, hcancel, -⟩ := hinv.at_rest hq
  rw [hcount]
  refine ⟨s.moveStarted target d0 dm ovs sg n, _, ?_, hrun, ?_, rfl, rfl, rfl, rfl, rfl, hcancel, rfl, rfl, rfl, hi⟩
  · rw [exec_move_ready target d0 dm ovs hq hi,
      State.startMove_accepted (delaysValid_iff.2 ⟨hdm, hd0⟩) hne' hsg rfl hinside]
  · rw [← hback]
    simp only [State.arrived, State.overshootEvents, ← List.append_assoc]
    rfl

end Sys2Proof.Machine
end

section
/-! ## The seek up to the read that confirms

A seek step with its status read, whose two replies are settled, is three actions; with `HOMEN = 1` the seek goes on
after a clear read and confirms at the first that shows a stall (`42_homing.md` R143 to R145). -/

namespace Sys2Proof.Machine

namespace State

/-- The replies of one status read, as the bus is to answer them. -/
def readAnswers (r : Bytes5 × Bytes5) : List PeerEntry := [.answer (.ok r.1), .answer (.ok r.2)]

/-- The events of one seek step with its status read. -/
def seekEvents (s : State) (r : Bytes5 × Bytes5) : List Event :=
  [.evStep s.cfg.seekdelay.toNat, .evTxn (readFrame s.cfg.statusaddr) r.1, .evTxn (readFrame s.cfg.statusaddr) r.2]

/-- `s` after the pulse of a seek step. -/
def seekPulsed (s : State) : State :=
  { s.pulse (s.cfg.seekdelay.toNat : Rat) with hom := { s.hom with s := s.hom.s + 1 }, seq := .seekT1 }

/-- `s` after a transaction of a status read, with the answers the bus still has to give. -/
def replied (s : State) (rx : Bytes5) (rest : List PeerEntry) : State :=
  { s with
    lines := { s.lines with csOn := false }, bus := { s.bus with rx := rx }, peer := { s.peer with script := rest },
    out := s.out ++ [.evTxn (readFrame s.cfg.statusaddr) rx] }

/-- `s` after one more seek step and the transactions of its status read, before what the status word decides. -/
def statusRead (s : State) (r : Bytes5 × Bytes5) (rest : List PeerEntry) : State :=
  { s.seekPulsed.replied r.1 (.answer (.ok r.2) :: rest) with seq := .seekT2 }.replied r.2 rest

theorem statusRead_out (s : State) (r : Bytes5 × Bytes5) (rest : List PeerEntry) :
    (s.statusRead r rest).out = s.out ++ s.seekEvents r := by
  simp only [statusRead, replied, seekPulsed, seekEvents, pulse_out, List.append_assoc]
  rfl

/-- `s` after one more seek step whose status read is clear. -/
def seekedOn (s : State) (r : Bytes5 × Bytes5) (rest : List PeerEntry) : State :=
  { s.statusRead r rest with
    bus := { s.bus with rx := r.2, result := r.2.payload }, hom := { s.hom with s := s.hom.s + 1, c := 0 },
    seq := .seekStep }

theorem seekedOn_out (s : State) (r : Bytes5 × Bytes5) (rest : List PeerEntry) :
    (s.seekedOn r rest).out = s.out ++ s.seekEvents r := statusRead_out s r rest

/-- A seek that nothing disturbs, at a seek step, with no confirming read counted. -/
structure SeeksAlone (s : State) : Prop where
  seq       : s.seq = .seekStep
  agenda    : s.agenda = []
  cancelReq : s.cancelReq = false
  unseen    : s.hom.c = 0

variable {s : State} {rest : List PeerEntry}

/-! ### One seek step and its status read -/

theorem step_seekT1 {rx : Bytes5} (hq : s.seq = .seekT1) (ha : s.agenda = [])
    (hs : s.peer.script = .answer (.ok rx) :: rest) : step s = .next { s.replied rx rest with seq := .seekT2 } := by
  rw [step_nil s ha, act_status s (.inl hq), transact_scripted _ s _ rest hs, afterRead_status_first (by exact hq)]
  rfl

theorem step_seekT2 {rx : Bytes5} (hq : s.seq = .seekT2) (ha : s.agenda = [])
    (hs : s.peer.script = .answer (.ok rx) :: rest) :
    step s = .next ((s.replied rx rest).takeStatus rx.payload) := by
  rw [step_nil s ha, act_status s (.inr hq), transact_scripted _ s _ rest hs, afterRead_status_second (by exact hq)]
  rfl

theorem SeeksAlone.step_pulses (h : s.SeeksAlone) (hb : s.hom.s.toNat < s.cfg.homebudget.toNat) :
    step s = .next s.seekPulsed := by
  rw [step_nil s h.agenda, act_seekStep s h.seq, seekStep_pulses s h.cancelReq hb]
  rfl

theorem SeeksAlone.run_statusRead (h : s.SeeksAlone) {r : Bytes5 × Bytes5}
    (hb : s.hom.s.toNat < s.cfg.homebudget.toNat) (hs : s.peer.script = readAnswers r ++ rest) :
    Host.Core.run Sys2Proof.core 3 s = .next ((s.statusRead r rest).takeStatus r.2.payload) := by
  have h1 := h.step_pulses hb
  have h2 := step_seekT1 (s := s.seekPulsed) rfl h.agenda hs
  have h3 := step_seekT2 (s := { s.seekPulsed.replied r.1 (.answer (.ok r.2) :: rest) with seq := .seekT2 }) rfl
    h.agenda rfl
  exact (run_succ 2 h1).trans ((run_succ 1 h2).trans (run_succ 0 h3))

/-- A clear read sends the seek on. -/
theorem SeeksAlone.run_clear (h : s.SeeksAlone) {r : Bytes5 × Bytes5} (hn : s.cfg.homen = 1)
    (hb : s.hom.s.toNat < s.cfg.homebudget.toNat) (hs : s.peer.script = readAnswers r ++ rest)
    (hclear : s.cfg.stall s.hom.pred r.2.payload = false) :
    Host.Core.run Sys2Proof.core 3 s = .next (s.seekedOn r rest) := by
  have hcount : (s.statusRead r rest).debounced r.2.payload = 0 := debounced_clear (Bool.eq_false_iff.1 hclear)
  have hlt : ((s.statusRead r rest).debounced r.2.payload).toNat < s.cfg.homen.toNat := by rw [hcount, hn]; decide
  rw [h.run_statusRead hb hs, takeStatus_continues _ _ hlt, hcount]
  rfl

/-- With `HOMEN = 1` the first read that shows a stall confirms. -/
theorem SeeksAlone.run_stall (h : s.SeeksAlone) {r : Bytes5 × Bytes5} (hn : s.cfg.homen = 1)
    (ho : s.cfg.homeoffset ≠ 0) (hb : s.hom.s.toNat < s.cfg.homebudget.toNat)
    (hs : s.peer.script = readAnswers r ++ rest) (hstall : s.cfg.stall s.hom.pred r.2.payload = true) :
    ∃ u, Host.Core.run Sys2Proof.core 3 s = .next u ∧ u.hstate = .hConfirmed ∧ u.seq = .fwd 0 ∧
      u.hom.s = s.hom.s + 1 ∧ u.position = s.position ∧ u.peer.script = rest ∧
      u.out = s.out ++ s.seekEvents r ++ [.evDir (signFlip s.hom.sign)] := by
  have hcount : (s.statusRead r rest).debounced r.2.payload = s.hom.c + 1 := debounced_stall hstall
  have hle : s.cfg.homen.toNat ≤ ((s.statusRead r rest).debounced r.2.payload).toNat := by
    rw [hcount, hn, h.unseen]
    decide
  have hoffset : 0 < s.cfg.homeoffset.toNat := Nat.pos_of_ne_zero fun h0 => ho (BitVec.eq_of_toNat_eq h0)
  have hend := (takeStatus_confirms r.2.payload (s.statusRead r rest) hle).trans (confirm_backs_off hoffset)
  refine ⟨_, (h.run_statusRead hb hs).trans (congrArg Host.Outcome.next hend), rfl, rfl, rfl, rfl, rfl, ?_⟩
  rw [← s.statusRead_out r rest]
  rfl

/-! ### The whole seek -/

theorem SeeksAlone.run_seek {clear : List (Bytes5 × Bytes5)} {last : Bytes5 × Bytes5} (h : s.SeeksAlone)
    (hn : s.cfg.homen = 1) (ho : s.cfg.homeoffset ≠ 0)
    (hs : s.peer.script = clear.flatMap readAnswers ++ (readAnswers last ++ rest))
    (hclear : ∀ r ∈ clear, s.cfg.stall s.hom.pred r.2.payload = false)
    (hstall : s.cfg.stall s.hom.pred last.2.payload = true)
    (hb : s.hom.s.toNat + clear.length + 1 ≤ s.cfg.homebudget.toNat) :
    ∃ u, Host.Core.run Sys2Proof.core (3 * (clear.length + 1)) s = .next u ∧ u.hstate = .hConfirmed ∧
      u.seq = .fwd 0 ∧ u.hom.s.toNat = s.hom.s.toNat + clear.length + 1 ∧ u.position = s.position ∧
      u.peer.script = rest ∧
      u.out = s.out ++ (clear ++ [last]).flatMap s.seekEvents ++ [.evDir (signFlip s.hom.sign)] := by
  have hlt : s.hom.s.toNat < s.cfg.homebudget.toNat := by omega
  have hsucc := toNat_add_one_of_lt hlt
  induction clear generalizing s with
  | nil =>
    obtain ⟨u, hrun, hconf, hseq, hcount, hpos, hrest, hout⟩ := h.run_stall hn ho hlt hs hstall
    refine ⟨u, hrun, hconf, hseq, ?_, hpos, hrest, ?_⟩
    · rw [hcount, hsucc]
      rfl
    · rw [hout]
      simp
  | cons r clear ih =>
    rw [List.length_cons] at hb
    rw [List.flatMap_cons, List.append_assoc] at hs
    have hfirst := h.run_clear hn hlt hs (hclear r List.mem_cons_self)
    have hnext : (s.seekedOn r (clear.flatMap readAnswers ++ (readAnswers last ++ rest))).SeeksAlone :=
      ⟨rfl, h.agenda, h.cancelReq, rfl⟩
    have hb' : (s.hom.s + 1).toNat + clear.length + 1 ≤ s.cfg.homebudget.toNat := by omega
    have hlt' : (s.hom.s + 1).toNat < s.cfg.homebudget.toNat := by omega
    obtain ⟨u, hrun, hconf, hseq, hcount, hpos, hrest, hout⟩ := ih hnext hn ho rfl
      (fun r' hr' => hclear r' (List.mem_cons_of_mem r hr')) hstall hb' hlt' (toNat_add_one_of_lt hlt')
    refine ⟨u, ?_, hconf, hseq, ?_, hpos, hrest, ?_⟩
    · rw [List.length_cons, show 3 * (clear.length + 1 + 1) = 3 + 3 * (clear.length + 1) by omega, run_add 3 _ hfirst,
        hrun]
    · rw [hcount, List.length_cons]
      change (s.hom.s + 1).toNat + _ + 1 = _
      omega
    · rw [hout, List.cons_append, List.flatMap_cons]
      rw [seekedOn_out, List.append_assoc s.out]
      rfl

/-- With `HOMEN = 1` a seek step is reached with no confirming read counted. -/
theorem Inv.seeksAlone (h : s.Inv) (hq : s.seq = .seekStep) (ha : s.agenda = []) (hc : s.cancelReq = false)
    (hn : s.cfg.homen = 1) : s.SeeksAlone := by
  obtain ⟨-, -, -, -, hcount, -⟩ := h.seeking (by rw [hq]; rfl)
  rw [hn] at hcount
  exact ⟨hq, ha, hc, BitVec.eq_of_toNat_eq (Nat.lt_one_iff.1 hcount)⟩

end State

/-- Settles O43, by induction on the clear reads. -/
theorem homingConfirmsAtStepK : Obligations.HomingConfirmsAtStepK := by
  intro s clear r1 r2 more hinv hq ha hc hn ho hs hclear hstall hb
  obtain ⟨u, hrun, hconf, hseq, hcount, hpos, hrest, hout⟩ :=
    (hinv.seeksAlone hq ha hc hn).run_seek (last := (r1, r2)) hn ho hs hclear hstall hb
  exact ⟨u, hrun, hconf, hseq, hcount, hpos, hrest, hout⟩

end Sys2Proof.Machine
end
